-- ==== Sys2Proof/Word.lean ====
section
/-! DEFINITION. The word types of the mmuthu46 Frame Codec: bytes, bus data words, register addresses and the
25-bit transaction word (spec/00_scope.md R9, R10, R12; spec/30_encoding.md R74). -/

namespace Sys2Proof

/-- One 8-bit unsigned value: a frame byte, a received byte (R9, `BYTE_WIDTH = 8`). -/
abbrev Byte := BitVec 8

/-- One bus data word (R10, `DATA_WIDTH = 16`). -/
abbrev Word := BitVec 16

/-- One register address (R10, `ADDR_WIDTH = 8`). -/
abbrev Addr := BitVec 8

/-- One 25-bit transaction word: direction, address, data (R74). -/
abbrev TxnWord := BitVec 25

/-- Ten bytes in wire order, element 0 first on the wire (R13, R70). -/
abbrev FrameBytes := Vector Byte 10

/-- The nine values of the field registers, index = wire position of the field (R22). -/
abbrev FieldValues := Vector Word 9

end Sys2Proof
end

