-- ==== Sys2Proof/Syntax.lean ====
section
/-! DEFINITION. The instruction type: one constructor per row of spec/opcode_table.json (every "instruction" is one
host bus transaction, spec/30_encoding.md R74 to R80), and the names of the registers (R51, R83). -/

namespace Sys2Proof

/-- A register of the register map by name (spec/20_memory.md R51; names of spec/30_encoding.md R83). -/
inductive Reg where
  | cmd
  | status
  | rxCount
  | rxData
  | ckResult
  | decCkCalc
  | fieldIn (i : Fin 9)
  | tx (j : Fin 10)
  | dec (j : Fin 10)
  | rxbuf (k : Fin 10)
deriving DecidableEq, Repr

/-- One host bus transaction. Bits the hardware ignores are kept as operands, so that no bit of an encoding is
dropped (log entry 12). -/
inductive Instr where
  /-- `CMD` write of 0x0000 (R160). -/
  | nop
  /-- `CMD` write of 0x0001: pack `FIELD_IN` into `TX` (R128). -/
  | encode
  /-- `CMD` write of 0x0002: unpack `RXBUF` into `DEC` (R129). -/
  | decode
  /-- `CMD` write of 0x0003: `CK_RESULT <- Checksum(FIELD_IN)` (R104). -/
  | checksum
  /-- `CMD` write of 0x0004: `RX_COUNT <- 0` (R161). -/
  | rxClear
  /-- Any other `CMD` write: `RSVD = DATA[15:8]`, `OPC = DATA[7:0]` (R162). -/
  | cmdIllegal (rsvd opc : Byte)
  /-- `RX_DATA` write: byte `b = DATA[7:0]`; `ign = DATA[15:8]` is ignored (R163). -/
  | rxPush (ign b : Byte)
  /-- Write of `FIELD_IN[0]` (R164). -/
  | wrFiStart (v : Word)
  /-- Write of `FIELD_IN[1]` (R164). -/
  | wrFiDev (v : Word)
  /-- Write of `FIELD_IN[2]` (R164). -/
  | wrFiCmd (v : Word)
  /-- Write of `FIELD_IN[3]` (R164). -/
  | wrFiPrm (v : Word)
  /-- Write of `FIELD_IN[4]` (R164). -/
  | wrFiErr (v : Word)
  /-- Write of `FIELD_IN[5]` (R164). -/
  | wrFiD3 (v : Word)
  /-- Write of `FIELD_IN[6]` (R164). -/
  | wrFiD2 (v : Word)
  /-- Write of `FIELD_IN[7]` (R164). -/
  | wrFiD1 (v : Word)
  /-- Write of `FIELD_IN[8]` (R164). -/
  | wrFiD0 (v : Word)
  /-- Write to a read-only or unmapped address; `data` is ignored (R166). -/
  | wrIgnored (addr : Addr) (data : Word)
  /-- Read of any address; `ign = DATA[15:0]` is ignored (R165). -/
  | rd (addr : Addr) (ign : Word)
deriving DecidableEq, Repr

end Sys2Proof
end

