-- ==== Sys2Proof/WellFormed.lean ====
section
/-! DEFINITION. Which terms of `Instr` are instructions: the operand values the encoding gives each row
(spec/30_encoding.md R76 to R79). Only `cmdIllegal` and `wrIgnored` restrict their operands: their rows match what no
row of higher priority matches. -/

namespace Sys2Proof

/-- A command word that is one of 0x0000 to 0x0004 (R78): `RSVD = 0` and `OPC` at most 4. -/
def legalCommandWord (rsvd opc : Byte) : Bool :=
  rsvd == 0#8 && decide (opc.toNat ≤ 4)

/-- An address whose write does something: `CMD`, `RX_DATA` or a field register (R76, cases 2 to 4). -/
def writableAddr (a : Addr) : Bool :=
  a == 0x00#8 || a == 0x03#8 || (decide (0x10 ≤ a.toNat) && decide (a.toNat ≤ 0x18))

/-- The well-formed instructions. -/
def Instr.wellFormed : Instr → Bool
  | .nop => true
  | .encode => true
  | .decode => true
  | .checksum => true
  | .rxClear => true
  | .cmdIllegal rsvd opc => !legalCommandWord rsvd opc
  | .rxPush _ _ => true
  | .wrFiStart _ => true
  | .wrFiDev _ => true
  | .wrFiCmd _ => true
  | .wrFiPrm _ => true
  | .wrFiErr _ => true
  | .wrFiD3 _ => true
  | .wrFiD2 _ => true
  | .wrFiD1 _ => true
  | .wrFiD0 _ => true
  | .wrIgnored addr _ => !writableAddr addr
  | .rd _ _ => true

end Sys2Proof
end

