-- ==== Sys2Proof/Decode.lean ====
section
/-! DEFINITION. The encodings of spec/30_encoding.md: the fields of the transaction word (R74), the decoder (R76 to
R79), total on 25-bit words and rejecting byte strings by name, the register map (spec/20_memory.md R51), the rows of
spec/opcode_table.json, and the encoder. -/

namespace Sys2Proof

/-! ## The fields of the transaction word (R74) -/

/-- Bit `W`: true for a write. -/
def TxnWord.isWrite (t : TxnWord) : Bool := t.getLsbD 24

/-- Field `ADDR = T[23:16]`. -/
def TxnWord.addr (t : TxnWord) : Addr := t.extractLsb' 16 8

/-- Field `DATA = T[15:0]`. -/
def TxnWord.data (t : TxnWord) : Word := t.extractLsb' 0 16

/-- `DATA[15:8]`: `RSVD` of a command word (R77), ignored in an `RX_DATA` write (R80). -/
def highByte (d : Word) : Byte := d.extractLsb' 8 8

/-- `DATA[7:0]`: `OPC` of a command word (R77), the byte of an `RX_DATA` write (R80). -/
def lowByte (d : Word) : Byte := d.extractLsb' 0 8

/-- `{W, ADDR, DATA}` (R74). -/
def makeTxn (w : Bool) (a : Addr) (d : Word) : TxnWord := BitVec.ofBool w ++ a ++ d

/-- `{RSVD, OPC}` (R77). -/
def makeCommand (rsvd opc : Byte) : Word := rsvd ++ opc

/-! ## The register map (R51) -/

/-- The address of a register. -/
def Reg.addr : Reg → Addr
  | .cmd => 0x00#8
  | .status => 0x01#8
  | .rxCount => 0x02#8
  | .rxData => 0x03#8
  | .ckResult => 0x04#8
  | .decCkCalc => 0x05#8
  | .fieldIn i => BitVec.ofNat 8 (0x10 + i.val)
  | .tx j => BitVec.ofNat 8 (0x20 + j.val)
  | .dec j => BitVec.ofNat 8 (0x30 + j.val)
  | .rxbuf k => BitVec.ofNat 8 (0x40 + k.val)

/-- The register at an address, `none` where the address is unmapped. -/
def Reg.ofAddr (a : Addr) : Option Reg :=
  let n := a.toNat
  if n = 0x00 then some .cmd
  else if n = 0x01 then some .status
  else if n = 0x02 then some .rxCount
  else if n = 0x03 then some .rxData
  else if n = 0x04 then some .ckResult
  else if n = 0x05 then some .decCkCalc
  else if h : 0x10 ≤ n ∧ n ≤ 0x18 then some (.fieldIn ⟨n - 0x10, by omega⟩)
  else if h : 0x20 ≤ n ∧ n ≤ 0x29 then some (.tx ⟨n - 0x20, by omega⟩)
  else if h : 0x30 ≤ n ∧ n ≤ 0x39 then some (.dec ⟨n - 0x30, by omega⟩)
  else if h : 0x40 ≤ n ∧ n ≤ 0x49 then some (.rxbuf ⟨n - 0x40, by omega⟩)
  else none

/-! ## The decoder -/

/-- A command word (R77, R78): `RSVD` is checked first, then `OPC` (R228). -/
def decodeCommand (d : Word) : Instr :=
  if highByte d ≠ 0#8 then .cmdIllegal (highByte d) (lowByte d)
  else if lowByte d = 0x00#8 then .nop
  else if lowByte d = 0x01#8 then .encode
  else if lowByte d = 0x02#8 then .decode
  else if lowByte d = 0x03#8 then .checksum
  else if lowByte d = 0x04#8 then .rxClear
  else .cmdIllegal (highByte d) (lowByte d)

/-- A write to address `a`, first match wins (R76, cases 2 to 5). -/
def decodeWrite (a : Addr) (d : Word) : Instr :=
  if a = 0x00#8 then decodeCommand d
  else if a = 0x03#8 then .rxPush (highByte d) (lowByte d)
  else if a = 0x10#8 then .wrFiStart d
  else if a = 0x11#8 then .wrFiDev d
  else if a = 0x12#8 then .wrFiCmd d
  else if a = 0x13#8 then .wrFiPrm d
  else if a = 0x14#8 then .wrFiErr d
  else if a = 0x15#8 then .wrFiD3 d
  else if a = 0x16#8 then .wrFiD2 d
  else if a = 0x17#8 then .wrFiD1 d
  else if a = 0x18#8 then .wrFiD0 d
  else .wrIgnored a d

/-- The operation a transaction word selects: total, refusing no word (R76). -/
def decode (t : TxnWord) : Instr :=
  if t.isWrite then decodeWrite t.addr t.data else .rd t.addr t.data

/-- Why a byte string is no transaction word. -/
inductive DecodeReject where
  /-- Raised by `decodeBytes`: not the four bytes that hold 25 bits. Safe: no such string is a bus cycle. -/
  | wrongLength
  /-- Raised by `decodeBytes`: a bit above bit 24 is set. Safe: a transaction word has 25 bits (R82). -/
  | bitsAboveWord
deriving DecidableEq, Repr

/-- The number a byte string writes, least significant byte first (log entry 11). -/
def numberOfBytes : List Byte → Nat
  | [] => 0
  | b :: bs => b.toNat + 256 * numberOfBytes bs

/-- The `k` low bytes of a number, least significant first (log entry 11). -/
def bytesOfNumber : Nat → Nat → List Byte
  | 0, _ => []
  | k + 1, n => BitVec.ofNat 8 n :: bytesOfNumber k (n / 256)

/-- A transaction word from four bytes, bit 0 of the first byte its bit 0; every other string is rejected by
name (log entry 11). -/
def decodeBytes (bs : List Byte) : Except DecodeReject Instr :=
  if bs.length ≠ 4 then .error .wrongLength
  else if 2 ^ 25 ≤ numberOfBytes bs then .error .bitsAboveWord
  else .ok (decode (BitVec.ofNat 25 (numberOfBytes bs)))

/-- The instruction the decoder reads from a table word: `nbits` bits in whole bytes, bit 0 least significant. -/
def decodeTableWord (nbits w : Nat) : Option Instr :=
  match decodeBytes (bytesOfNumber ((nbits + 7) / 8) w) with
  | .ok i => some i
  | .error _ => none

/-! ## The encoder -/

/-- The transaction word of an instruction (R74, R77, R78; the rows of spec/opcode_table.json). -/
def encode : Instr → TxnWord
  | .nop => makeTxn true 0x00#8 0x0000#16
  | .encode => makeTxn true 0x00#8 0x0001#16
  | .decode => makeTxn true 0x00#8 0x0002#16
  | .checksum => makeTxn true 0x00#8 0x0003#16
  | .rxClear => makeTxn true 0x00#8 0x0004#16
  | .cmdIllegal rsvd opc => makeTxn true 0x00#8 (makeCommand rsvd opc)
  | .rxPush ign b => makeTxn true 0x03#8 (makeCommand ign b)
  | .wrFiStart v => makeTxn true 0x10#8 v
  | .wrFiDev v => makeTxn true 0x11#8 v
  | .wrFiCmd v => makeTxn true 0x12#8 v
  | .wrFiPrm v => makeTxn true 0x13#8 v
  | .wrFiErr v => makeTxn true 0x14#8 v
  | .wrFiD3 v => makeTxn true 0x15#8 v
  | .wrFiD2 v => makeTxn true 0x16#8 v
  | .wrFiD1 v => makeTxn true 0x17#8 v
  | .wrFiD0 v => makeTxn true 0x18#8 v
  | .wrIgnored addr data => makeTxn true addr data
  | .rd addr ign => makeTxn false addr ign

/-! ## The rows of spec/opcode_table.json -/

/-- One row: a word `t` matches when `t AND mask = pattern`; a lower priority number wins. -/
structure TableRow where
  mnemonic : String
  mask : TxnWord
  pattern : TxnWord
  priority : Nat
deriving DecidableEq, Repr

/-- The word matches the row. -/
def TableRow.matchesWord (r : TableRow) (t : TxnWord) : Bool := t &&& r.mask == r.pattern

/-- A row of one whole command word. -/
def commandRow (mnemonic : String) (word : TxnWord) : TableRow :=
  { mnemonic := mnemonic, mask := 0x1FFFFFF#25, pattern := word, priority := 1 }

/-- A row of all writes to one address. -/
def addressRow (mnemonic : String) (pattern : TxnWord) (priority : Nat) : TableRow :=
  { mnemonic := mnemonic, mask := 0x1FF0000#25, pattern := pattern, priority := priority }

/-- The row of spec/opcode_table.json that an instruction belongs to. -/
def Instr.row : Instr → TableRow
  | .nop => commandRow "NOP" 0x1000000#25
  | .encode => commandRow "ENCODE" 0x1000001#25
  | .decode => commandRow "DECODE" 0x1000002#25
  | .checksum => commandRow "CHECKSUM" 0x1000003#25
  | .rxClear => commandRow "RX_CLEAR" 0x1000004#25
  | .cmdIllegal _ _ => addressRow "CMD_ILLEGAL" 0x1000000#25 2
  | .rxPush _ _ => addressRow "RX_PUSH" 0x1030000#25 1
  | .wrFiStart _ => addressRow "WR_FI_START" 0x1100000#25 1
  | .wrFiDev _ => addressRow "WR_FI_DEV" 0x1110000#25 1
  | .wrFiCmd _ => addressRow "WR_FI_CMD" 0x1120000#25 1
  | .wrFiPrm _ => addressRow "WR_FI_PRM" 0x1130000#25 1
  | .wrFiErr _ => addressRow "WR_FI_ERR" 0x1140000#25 1
  | .wrFiD3 _ => addressRow "WR_FI_D3" 0x1150000#25 1
  | .wrFiD2 _ => addressRow "WR_FI_D2" 0x1160000#25 1
  | .wrFiD1 _ => addressRow "WR_FI_D1" 0x1170000#25 1
  | .wrFiD0 _ => addressRow "WR_FI_D0" 0x1180000#25 1
  | .wrIgnored _ _ =>
    { mnemonic := "WR_IGNORED", mask := 0x1000000#25, pattern := 0x1000000#25, priority := 3 }
  | .rd _ _ => { mnemonic := "RD", mask := 0x1000000#25, pattern := 0x0000000#25, priority := 1 }

/-- All rows of spec/opcode_table.json, in its order. -/
def tableRows : List TableRow :=
  [Instr.nop.row, Instr.encode.row, Instr.decode.row, Instr.checksum.row, Instr.rxClear.row,
    (Instr.cmdIllegal 0 0).row, (Instr.rxPush 0 0).row] ++
  [(Instr.wrFiStart 0).row, (Instr.wrFiDev 0).row, (Instr.wrFiCmd 0).row, (Instr.wrFiPrm 0).row,
    (Instr.wrFiErr 0).row, (Instr.wrFiD3 0).row, (Instr.wrFiD2 0).row, (Instr.wrFiD1 0).row,
    (Instr.wrFiD0 0).row] ++
  [(Instr.wrIgnored 0 0).row, (Instr.rd 0 0).row]

end Sys2Proof
end

