-- ==== Sys2Proof/Config.lean ====
section
/-! DEFINITION. What an implementation or the environment fixes, and the free values (spec/00_scope.md R10, R11;
spec/93_implementation_defined.md I3 to I6, I11).
An `opaque` constant here has no body: nothing can be proved about its value, so a claim holds whatever it is. -/

namespace Sys2Proof

/-- The transport's answer to `open(port_name, baud)` (R182). -/
inductive OpenAnswer where
  | handle (h : Nat)
  | transportError
deriving DecidableEq, Repr, Inhabited

/-- The transport's answer to `write(handle, bytes)` (R182). -/
inductive WriteAnswer where
  | ok
  | transportError
deriving DecidableEq, Repr, Inhabited

/-- The transport's answer to `read(handle, n_bytes, timeout)` (R182). -/
inductive ReadAnswer where
  | bytes (bs : List Byte)
  | transportError
deriving DecidableEq, Repr, Inhabited

/-- The value R11 gives for the host parameter `BAUD` (unaudited literal, log entry 19). -/
def Config.defaultBaud : Nat := 9600

/-- The value R11 gives for the host parameter `READ_TIMEOUT`, one second in milliseconds (unaudited literal, log
entry 19). -/
def Config.defaultReadTimeout : Nat := 1000

/-- `RESP_LEN`, the number of bytes the host asks the transport for (R11). -/
def Config.respLen : Nat := 10

/-- `BASE_ADDR`, where the platform places the block: OPEN (R10, R50, decision D24; log entry 10). -/
opaque Config.baseAddr : Nat

/-- Free value: the n-th unscripted answer of the transport to `open` (I4; log entry 5). -/
opaque Config.freeOpen : Nat → OpenAnswer

/-- Free value: the n-th unscripted answer of the transport to `write` (I4; log entry 5). -/
opaque Config.freeWrite : Nat → WriteAnswer

/-- Free value: the n-th unscripted answer of the transport to `read` (I3; log entry 5). -/
opaque Config.freeRead : Nat → ReadAnswer

/-- Free value: the `hex_string` of the n-th presented record (R194, I11; log entry 8). -/
opaque Config.hexString : Nat → String

end Sys2Proof
end

