-- ==== Sys2Proof/Machine/State.lean ====
section
/-! DEFINITION. The machine's state as plain data: the block's architectural state (spec/10_state.md R20 to R41), the
reset input (spec/70_reset_and_hazards.md R250), the bus events waiting, and the host environment's session
(spec/43_exchange_host.md R180 to R194). -/

namespace Sys2Proof.Machine

/-- `ERR`, the outcome of the most recent command (R28, R221). Codes 4 to 7 are reserved and never produced, so the
type has no value for them (log entry 15). -/
inductive ErrCode where
  | none
  | outOfRange
  | shortFrame
  | illegalCommand
deriving DecidableEq, Repr

/-- The block's architectural state: exactly the list of R20. -/
structure Block where
  /-- `FIELD_IN[0..8]` (R22). -/
  fieldIn : FieldValues
  /-- `TX[0..9]` (R24). -/
  tx : FrameBytes
  /-- `TX_VALID` (R24). -/
  txValid : Bool
  /-- `RXBUF[0..9]` (R25). -/
  rxbuf : FrameBytes
  /-- `RX_COUNT` (R26). -/
  rxCount : Byte
  /-- `DEC[0..9]` (R30). -/
  dec : FrameBytes
  /-- `DEC_VALID` (R30). -/
  decValid : Bool
  /-- `CK_VALID` (R31). -/
  ckValid : Bool
  /-- `DEC_CK_CALC` (R32). -/
  decCkCalc : Byte
  /-- `CK_RESULT` (R33). -/
  ckResult : Byte
  /-- `ERR` (R28). -/
  err : ErrCode
  /-- `ERR_INDEX` (R29). -/
  errIndex : BitVec 4
deriving DecidableEq, Repr

/-- The reset value of every piece of block state (R41). -/
def Block.reset : Block where
  fieldIn := Vector.replicate 9 0x0000#16
  tx := Vector.replicate 10 0x00#8
  txValid := false
  rxbuf := Vector.replicate 10 0x00#8
  rxCount := 0x00#8
  dec := Vector.replicate 10 0x00#8
  decValid := false
  ckValid := false
  decCkCalc := 0x00#8
  ckResult := 0x00#8
  err := .none
  errIndex := 0x0#4

/-- The Frame record (R120); `data` is `[data3, data2, data1, data0]`. -/
structure Frame where
  startByte : Byte
  devId : Byte
  cmdId : Byte
  prmId : Byte
  errorByte : Byte
  data : Vector Byte 4
  checksum : Byte
deriving DecidableEq, Repr

/-- The exchange state (R180). -/
inductive XState where
  | idle
  | sending
  | awaitingResponse
  | complete
  | incomplete
deriving DecidableEq, Repr

/-- The host's `SessionState` (R180). -/
structure SessionState where
  handle : Option Nat
  xstate : XState
  lastResponse : Option (Frame × Bool)
deriving DecidableEq, Repr

/-- The host parameter `OPEN_POLICY` (R183, decision D29). -/
inductive OpenPolicy where
  | failAlreadyOpen
  | closeThenOpen
deriving DecidableEq, Repr

/-- What the host's caller asks of the exchange controller (R183, R184, R195). -/
inductive HostRequest where
  | openPort (portName : String)
  | closePort
  | send (fields : FieldValues)
deriving DecidableEq, Repr

/-- A caller-visible status of a finished request (R197; `opened` and `closed` are the successes of R183, R184). -/
inductive Report where
  | ok (frame : Frame) (checksumValid : Bool)
  | opened
  | closed
  | notConnected
  | alreadyOpen
  | outOfRange
  | transportError
  | timeout
deriving DecidableEq, Repr

/-- One call of the host on the transport collaborator (R182). -/
inductive TransportCall where
  | openPort (portName : String) (baud : Nat)
  | closePort (handle : Nat)
  | write (handle : Nat) (bytes : List Byte)
  | read (handle : Nat) (count timeout : Nat)
deriving DecidableEq, Repr

/-- One structured record given to the presentation collaborator (R194): `checksumValid` is `none` for an outbound
frame and the flag for an inbound one. -/
structure PresentedRecord where
  fields : Frame
  hexString : String
  checksumValid : Option Bool
deriving DecidableEq, Repr

/-- Where the host stands in the send sequence of R195; one phase is one block transaction, one transport call or one
decision. -/
inductive HostPhase where
  /-- No request in progress. -/
  | ready
  /-- `LOAD`: about to write `FIELD_IN[i]`. -/
  | loading (fields : FieldValues) (i : Fin 9)
  /-- About to issue `ENCODE`. -/
  | encoding
  /-- About to read `STATUS` and test `st[2:0] == 1`. -/
  | checking
  /-- `RDTX`: about to read `TX[j]`; `got` holds the bytes read so far. -/
  | readingTx (j : Fin 10) (got : FrameBytes)
  /-- About to issue `RXCLR`; `frame` is the request. -/
  | clearing (frame : FrameBytes)
  /-- About to call `write(handle, frame)`. -/
  | writing (frame : FrameBytes)
  /-- About to call `read(handle, 10, READ_TIMEOUT)`. -/
  | awaiting
  /-- About to push the next byte of `rest`; the read returned `len` bytes. -/
  | pushing (rest : List Byte) (len : Nat)
  /-- About to issue `DECODE`. -/
  | decoding
  /-- `RDDEC`: about to read `DEC[j]`; `got` holds the bytes read so far. -/
  | readingDec (j : Fin 10) (got : FrameBytes)
  /-- About to read `STATUS` for `st[5]`; `frame` is the response. -/
  | readingFlag (frame : FrameBytes)
deriving DecidableEq, Repr

/-- The transport collaborator as an oracle (R182): the answers it will give, oldest first. Where a list has run out
the answer is a free value of Config, drawn with the counter `draws` (log entry 5). -/
structure Transport where
  opens : List OpenAnswer
  writes : List WriteAnswer
  reads : List ReadAnswer
  draws : Nat
deriving DecidableEq, Repr

/-- The host environment: the exchange controller, its collaborators, and what they have seen. -/
structure HostEnv where
  session : SessionState
  /-- The host parameter `OPEN_POLICY`; no step changes it (R183, log entry 9). -/
  openPolicy : OpenPolicy
  /-- The host parameter `BAUD`; no step changes it (R11, log entry 19). -/
  baud : Nat
  /-- The host parameter `READ_TIMEOUT`, in milliseconds; no step changes it (R11, R189, log entry 19). -/
  readTimeout : Nat
  phase : HostPhase
  /-- Requests of the caller not yet started, oldest first (R181: one at a time). -/
  requests : List HostRequest
  transport : Transport
  /-- The transport calls made, newest first. -/
  calls : List TransportCall
  /-- The records presented, newest first. -/
  presented : List PresentedRecord
  /-- The outcomes reported, newest first. -/
  reports : List Report
deriving DecidableEq, Repr

/-- The host at start (R180, R251), with the parameter values of R183 and R11. -/
def HostEnv.initial : HostEnv where
  session := { handle := none, xstate := .idle, lastResponse := none }
  openPolicy := .failAlreadyOpen
  baud := Config.defaultBaud
  readTimeout := Config.defaultReadTimeout
  phase := .ready
  requests := []
  transport := { opens := [], writes := [], reads := [], draws := 0 }
  calls := []
  presented := []
  reports := []

/-- One event at the block's edge, in the order the bus accepts them (R59, R60; log entry 1). -/
inductive Event where
  /-- A bus master presents a transaction. -/
  | transaction (t : TxnWord)
  /-- A bus master accesses a platform address: the block's, if it lies in the block's window (R50). -/
  | access (write : Bool) (platformAddr : Nat) (data : Word)
  /-- The reset input changes to this level (R250). -/
  | resetLine (asserted : Bool)
  /-- The exchange controller takes its next step. -/
  | hostTurn
deriving DecidableEq, Repr

/-- The whole machine. -/
structure State where
  /-- The block (R20). -/
  block : Block
  /-- The level of the reset input: true while asserted (R250). -/
  resetIn : Bool
  /-- The model's own field: the 16-bit value the block returned to the master of the latest read (R165), `none`
  before any read (log entry 3). -/
  readData : Option Word
  /-- The model's own field: events that have arrived and not been taken, oldest first (log entry 1). -/
  agenda : List Event
  /-- The host environment (R7, R180). -/
  host : HostEnv
deriving DecidableEq, Repr

/-- The machine right after reset: every block register at R41's value, the reset input released, the host at its
initial state (R250 to R252). -/
def State.reset : State where
  block := .reset
  resetIn := false
  readData := none
  agenda := []
  host := .initial

/-- Why the machine stops with a fault: never. No access faults and no error traps (R52, R226), so the type has no
constructor (log entry 14). -/
inductive Fault where
deriving DecidableEq, Repr

/-- Why a step is refused. -/
inductive Refusal where
  /-- Raised by exec for an instruction without a meaning; no arm raises it in this model. Safe. -/
  | notModelled (mnemonic : String)
deriving DecidableEq, Repr

/-- What a step of this machine answers. -/
abbrev Result := Host.Outcome State Fault Refusal

end Sys2Proof.Machine
end

