-- ==== Sys2Proof/Machine/Operands.lean ====
section
/-! DEFINITION. The operand forms of spec/30_encoding.md R80 and spec/10_state.md R23: the signed reading of a field
register, its range check, the lowest failing index, and zero extension of a byte to the bus. -/

namespace Sys2Proof.Machine

/-- `sint16(v)`: a 16-bit value read as two's complement (R12). -/
def sint16 (v : Word) : Int := v.toInt

/-- An encode input is in range when it is in 0 to 255 (R23). -/
def inByteRange (x : Int) : Bool := decide (0 ≤ x) && decide (x ≤ 255)

/-- The least `i` with `FIELD_IN[i]` out of range, `none` when all nine are in range (R29, R104, R128). -/
def firstOutOfRange (f : FieldValues) : Option (Fin 9) :=
  [0, 1, 2, 3, 4, 5, 6, 7, 8].find? fun i : Fin 9 => !inByteRange (sint16 f[i])

/-- `v[i][7:0]` of every field register (R128). -/
def fieldBytes (f : FieldValues) : Vector Byte 9 :=
  #v[lowByte f[0], lowByte f[1], lowByte f[2], lowByte f[3], lowByte f[4], lowByte f[5], lowByte f[6], lowByte f[7],
    lowByte f[8]]

/-- `zext_16` of a byte (R54). -/
def zext16 (b : Byte) : Word := b.setWidth 16

/-- A field index as `ERR_INDEX` holds it (R29). -/
def errIndexOf (i : Fin 9) : BitVec 4 := BitVec.ofNat 4 i.val

end Sys2Proof.Machine
end

