-- ==== Sys2Proof/Machine/Assembler.lean ====
section
/-! DEFINITION. The two access forms of the bus (spec/00_scope.md R14, spec/20_memory.md R53) and the assembly notation
of spec/30_encoding.md R83, R84: register names, `RD`, `WR` and the pseudo-instructions with their expansions into
transaction words. -/

namespace Sys2Proof.Machine

/-- `MemRead(a, 2)`: a bus read; its `DATA` field is written as 0x0000 (R14, R75). -/
def memRead (a : Addr) : TxnWord := makeTxn false a 0x0000#16

/-- `MemWrite(a, 2, v)`: a bus write (R14). -/
def memWrite (a : Addr) (v : Word) : TxnWord := makeTxn true a v

/-- The assembler's name of a register (R83). -/
def regName : Reg → String
  | .cmd => "CMD"
  | .status => "STATUS"
  | .rxCount => "RX_COUNT"
  | .rxData => "RX_DATA"
  | .ckResult => "CK_RESULT"
  | .decCkCalc => "DEC_CK_CALC"
  | .fieldIn i =>
    #v["FI_START", "FI_DEV", "FI_CMD", "FI_PRM", "FI_ERR", "FI_D3", "FI_D2", "FI_D1", "FI_D0"][i]
  | .tx j => "TX" ++ toString j.val
  | .dec j => "DEC" ++ toString j.val
  | .rxbuf k => "RXBUF" ++ toString k.val

/-- One line of assembly: an address is a register name's address or a number (R83, R84). -/
inductive AsmLine where
  | rd (addr : Addr)
  | wr (addr : Addr) (imm : Int)
  | nop
  | encode
  | decode
  | cksum
  | rxclr
  | push (b : Byte)
  | setf (i : Fin 9) (v : Int)
  | load (v : Vector Int 9)
  | pushf (f : FrameBytes)
  | rdtx
  | rddec
deriving DecidableEq, Repr

/-- `<imm16>`: 0 to 0xFFFF, or -32768 to -1 as its two's complement; nothing else can be written (R83). -/
def imm16 (x : Int) : Option Word :=
  if -32768 ≤ x ∧ x ≤ 65535 then some (BitVec.ofInt 16 x) else none

/-- `WR <addr>, <imm16>` (R83). -/
def assembleWrite (a : Addr) (x : Int) : Option TxnWord := (imm16 x).map (memWrite a)

/-- The transaction words of a line (R84), `none` where an immediate cannot be written. -/
def assemble : AsmLine → Option (List TxnWord)
  | .rd a => some [memRead a]
  | .wr a x => (assembleWrite a x).map fun t => [t]
  | .nop => some [memWrite Reg.cmd.addr 0x0000#16]
  | .encode => some [memWrite Reg.cmd.addr 0x0001#16]
  | .decode => some [memWrite Reg.cmd.addr 0x0002#16]
  | .cksum => some [memWrite Reg.cmd.addr 0x0003#16]
  | .rxclr => some [memWrite Reg.cmd.addr 0x0004#16]
  | .push b => some [memWrite Reg.rxData.addr (zext16 b)]
  | .setf i x => (assembleWrite (Reg.fieldIn i).addr x).map fun t => [t]
  | .load v => (List.finRange 9).mapM fun i => assembleWrite (Reg.fieldIn i).addr v[i]
  | .pushf f => some (f.toList.map fun b => memWrite Reg.rxData.addr (zext16 b))
  | .rdtx => some ((List.finRange 10).map fun j => memRead (Reg.tx j).addr)
  | .rddec => some ((List.finRange 10).map fun j => memRead (Reg.dec j).addr)

end Sys2Proof.Machine
end

