-- ==== Sys2Proof/Machine/Codec.lean ====
section
/-! DEFINITION. The codec as pure functions, independent of the registers: the checksum (spec/40_checksum.md R100),
the Frame record and its serialisation (spec/41_frame_codec.md R120, spec/10_state.md R42), Encode (R121) and Decode
(R124). -/

namespace Sys2Proof.Machine

/-- `Checksum` of nine bytes: their sum as unbounded integers, modulo 256 (R100). -/
def checksum (bs : Vector Byte 9) : Byte :=
  BitVec.ofNat 8 (bs.toList.map BitVec.toNat).sum

/-- The first nine bytes of a frame, which the checksum covers (R72). -/
def ckSpan (f : FrameBytes) : Vector Byte 9 := f.pop

/-- Nine bytes followed by their checksum (R123). -/
def packFrame (bs : Vector Byte 9) : FrameBytes := bs.push (checksum bs)

/-- The validity predicate of a ten-byte sequence (R105). -/
def validFrame (f : FrameBytes) : Bool := checksum (ckSpan f) == f[9]

/-- The Frame record of ten wire-order bytes (R42, R124). -/
def Frame.ofBytes (f : FrameBytes) : Frame where
  startByte := f[0]
  devId := f[1]
  cmdId := f[2]
  prmId := f[3]
  errorByte := f[4]
  data := #v[f[5], f[6], f[7], f[8]]
  checksum := f[9]

/-- `serialize(F)` (R120). -/
def Frame.serialize (f : Frame) : FrameBytes :=
  #v[f.startByte, f.devId, f.cmdId, f.prmId, f.errorByte, f.data[0], f.data[1], f.data[2], f.data[3], f.checksum]

/-- The informative numeric view `DATA32 = {data3, data2, data1, data0}` (R86). -/
def Frame.data32 (f : Frame) : BitVec 32 := f.data[0] ++ f.data[1] ++ f.data[2] ++ f.data[3]

/-- The error kinds of the codec functions (R122, R125). -/
inductive CodecError where
  | outOfRange
  | shortFrame
deriving DecidableEq, Repr

/-- Nine integers as bytes, modulo 256. -/
def intBytes (v : Vector Int 9) : Vector Byte 9 :=
  #v[BitVec.ofInt 8 v[0], BitVec.ofInt 8 v[1], BitVec.ofInt 8 v[2], BitVec.ofInt 8 v[3], BitVec.ofInt 8 v[4],
    BitVec.ofInt 8 v[5], BitVec.ofInt 8 v[6], BitVec.ofInt 8 v[7], BitVec.ofInt 8 v[8]]

/-- `Encode(s, d, c, p, e, [x3, x2, x1, x0])` on integers (R121); the nine inputs in frame order. -/
def encodeFrame (v : Vector Int 9) : Except CodecError FrameBytes :=
  if v.toList.all inByteRange then .ok (packFrame (intBytes v)) else .error .outOfRange

/-- `Decode(buf)` on a byte sequence of any length (R124): it fails on every length but ten (R125), and a checksum
mismatch is data, not a failure (R126). -/
def decodeFrame (buf : List Byte) : Except CodecError (Frame × Bool) :=
  if h : buf.length = 10 then
    let f : FrameBytes := ⟨buf.toArray, by simpa using h⟩
    .ok (Frame.ofBytes f, validFrame f)
  else .error .shortFrame

end Sys2Proof.Machine
end

