-- ==== Sys2Proof/Machine/Flags.lean ====
section
/-! DEFINITION. The flags: the code of `ERR` (spec/10_state.md R28), the computed flags `RX_EXACT` and `RX_OVER` (R38)
and the `STATUS` word assembled on each read (R27). -/

namespace Sys2Proof.Machine

/-- The 3-bit code of an outcome (R28). -/
def ErrCode.code : ErrCode → BitVec 3
  | .none => 0#3
  | .outOfRange => 1#3
  | .shortFrame => 2#3
  | .illegalCommand => 3#3

/-- `RX_EXACT = (RX_COUNT == 10)` (R38). -/
def Block.rxExact (b : Block) : Bool := b.rxCount.toNat == 10

/-- `RX_OVER = (RX_COUNT > 10)` (R38). -/
def Block.rxOver (b : Block) : Bool := decide (b.rxCount.toNat > 10)

/-- `STATUS` (R27): `{0000, ERR_INDEX, RX_OVER, RX_EXACT, CK_VALID, DEC_VALID, TX_VALID, ERR}`. -/
def Block.status (b : Block) : Word :=
  0#4 ++ b.errIndex ++ BitVec.ofBool b.rxOver ++ BitVec.ofBool b.rxExact ++ BitVec.ofBool b.ckValid ++
    BitVec.ofBool b.decValid ++ BitVec.ofBool b.txValid ++ b.err.code

end Sys2Proof.Machine
end

