-- ==== Sys2Proof/Machine/Ops.lean ====
section
/-! DEFINITION. The shared operations of the meanings: recording a command's outcome (spec/60_exceptions.md R222, which
stands where other machines take an exception: this block has no trap, R226), reading and writing registers
(spec/20_memory.md R51 to R54), reset (spec/70_reset_and_hazards.md R250) and the platform window (R50). -/

namespace Sys2Proof.Machine

/-! ## Named updates -/

/-- The block's registers after the transaction; nothing outside the block changes. -/
def State.withBlock (s : State) (b : Block) : State := { s with block := b }

/-- A transaction that answers no data: the block's new registers, the rest as before. -/
def State.finish (s : State) (b : Block) : Result := .next (s.withBlock b)

/-- A value returned to the master of a read (R165). -/
def State.answer (s : State) (v : Word) : State := { s with readData := some v }

/-- Every command writes `ERR` and `ERR_INDEX` together, overwriting the previous outcome (R222). -/
def Block.record (b : Block) (e : ErrCode) (k : BitVec 4) : Block := { b with err := e, errIndex := k }

/-- A command that succeeded: `ERR <- NONE; ERR_INDEX <- 0` (R222). -/
def Block.succeed (b : Block) : Block := b.record .none 0#4

/-- `raise OUT_OF_RANGE(k)` (R223). -/
def Block.raiseOutOfRange (b : Block) (k : Fin 9) : Block := b.record .outOfRange (errIndexOf k)

/-- `raise SHORT_FRAME()` (R224). -/
def Block.raiseShortFrame (b : Block) : Block := b.record .shortFrame 0#4

/-- `raise ILLEGAL_COMMAND()` (R225). -/
def Block.raiseIllegalCommand (b : Block) : Block := b.record .illegalCommand 0#4

/-- `FIELD_IN[i] <- v` (R164). -/
def Block.setField (b : Block) (i : Fin 9) (v : Word) : Block := { b with fieldIn := b.fieldIn.set i v }

/-- `TX <- frame`, `TX_VALID <- 1` (R128, success). -/
def Block.loadTx (b : Block) (f : FrameBytes) : Block := { b with tx := f, txValid := true }

/-- `TX_VALID <- 0`, the bytes of `TX` unchanged (R128, failure). -/
def Block.invalidateTx (b : Block) : Block := { b with txValid := false }

/-- `CK_RESULT <- c` (R104). -/
def Block.setCkResult (b : Block) (c : Byte) : Block := { b with ckResult := c }

/-- `RX_COUNT <- 0`, the bytes of `RXBUF` unchanged (R129, R161). -/
def Block.emptyRx (b : Block) : Block := { b with rxCount := 0#8 }

/-- `DEC <- frame` with the recomputed checksum and the flags of a successful decode (R129). -/
def Block.loadDec (b : Block) (f : FrameBytes) : Block :=
  { b with dec := f, decCkCalc := checksum (ckSpan f), ckValid := validFrame f, decValid := true }

/-- The count after one more push: saturating at 255 (R26, R163). -/
def nextRxCount (n : Byte) : Byte := if n.toNat < 255 then n + 1#8 else n

/-- One received byte: stored while fewer than ten have arrived, always counted (R163). -/
def Block.pushByte (b : Block) (x : Byte) : Block :=
  { b with
    rxbuf := if b.rxCount.toNat < 10 then b.rxbuf.setIfInBounds b.rxCount.toNat x else b.rxbuf
    rxCount := nextRxCount b.rxCount }

/-! ## Reading a register -/

/-- The 16-bit value of a named register (R165); the write ports hold no state and read as zero (R34, R35). -/
def Block.readReg (b : Block) : Reg → Word
  | .cmd => 0#16
  | .status => b.status
  | .rxCount => zext16 b.rxCount
  | .rxData => 0#16
  | .ckResult => zext16 b.ckResult
  | .decCkCalc => zext16 b.decCkCalc
  | .fieldIn i => b.fieldIn[i]
  | .tx j => zext16 b.tx[j]
  | .dec j => zext16 b.dec[j]
  | .rxbuf k => zext16 b.rxbuf[k]

/-- The 16-bit value at a register address; an unmapped address reads as zero (R52, R165). -/
def Block.readAddr (b : Block) (a : Addr) : Word :=
  match Reg.ofAddr a with
  | some r => b.readReg r
  | none => 0#16

/-! ## Reset -/

/-- The reset input changes level; asserting it resets all block state (R250). -/
def State.driveReset (s : State) (asserted : Bool) : State :=
  if asserted then { s with block := .reset, resetIn := true } else { s with resetIn := false }

/-- A transaction presented while reset is asserted: no effect, and a read returns 0x0000 (R250). -/
def State.underReset (s : State) (i : Instr) : State :=
  match i with
  | .rd _ _ => s.answer 0#16
  | _ => s

/-! ## The platform window (R50) -/

/-- Register address `a` is at platform address `BASE_ADDR + a`. -/
def platformAddr (a : Addr) : Nat := Config.baseAddr + a.toNat

/-- The register address of a platform address, `none` outside the block's 256 addresses. -/
def registerAddrOf (p : Nat) : Option Addr :=
  if Config.baseAddr ≤ p ∧ p < Config.baseAddr + 256 then some (BitVec.ofNat 8 (p - Config.baseAddr)) else none

/-- The transaction a platform access presents to the block, `none` where it does not reach the block. -/
def accessTxn (write : Bool) (p : Nat) (d : Word) : Option TxnWord :=
  (registerAddrOf p).map fun a => makeTxn write a (if write then d else 0#16)

end Sys2Proof.Machine
end

