-- ==== Sys2Proof/Machine/BusBuffer.lean ====
section
/-! DEFINITION. The buffer, control and register-access operations (spec/42_bus_and_buffer.md R160 to R166). -/

namespace Sys2Proof.Machine

/-- `NOP`: record success, nothing else (R160). -/
def execNop (s : State) : Result := s.finish s.block.succeed

/-- `RX_CLEAR`: empty the receive buffer (R161). -/
def execRxClear (s : State) : Result := s.finish s.block.emptyRx.succeed

/-- An illegal command word: record it, nothing else; `RSVD` and `OPC` have no further use (R162). -/
def execCmdIllegal (_rsvd _opc : Byte) (s : State) : Result := s.finish s.block.raiseIllegalCommand

/-- `RX_PUSH`: append one received byte; the high byte of the write is ignored (R163). -/
def execRxPush (_ign b : Byte) (s : State) : Result := s.finish (s.block.pushByte b)

/-- `WR_FI_START` (R164). -/
def execWrFiStart (v : Word) (s : State) : Result := s.finish (s.block.setField 0 v)

/-- `WR_FI_DEV` (R164). -/
def execWrFiDev (v : Word) (s : State) : Result := s.finish (s.block.setField 1 v)

/-- `WR_FI_CMD` (R164). -/
def execWrFiCmd (v : Word) (s : State) : Result := s.finish (s.block.setField 2 v)

/-- `WR_FI_PRM` (R164). -/
def execWrFiPrm (v : Word) (s : State) : Result := s.finish (s.block.setField 3 v)

/-- `WR_FI_ERR` (R164). -/
def execWrFiErr (v : Word) (s : State) : Result := s.finish (s.block.setField 4 v)

/-- `WR_FI_D3` (R164). -/
def execWrFiD3 (v : Word) (s : State) : Result := s.finish (s.block.setField 5 v)

/-- `WR_FI_D2` (R164). -/
def execWrFiD2 (v : Word) (s : State) : Result := s.finish (s.block.setField 6 v)

/-- `WR_FI_D1` (R164). -/
def execWrFiD1 (v : Word) (s : State) : Result := s.finish (s.block.setField 7 v)

/-- `WR_FI_D0` (R164). -/
def execWrFiD0 (v : Word) (s : State) : Result := s.finish (s.block.setField 8 v)

/-- `WR_IGNORED`: a write to a read-only or unmapped address has no effect (R166). -/
def execWrIgnored (_addr : Addr) (_data : Word) (s : State) : Result := .next s

/-- `RD`: return the register's value; no block state changes (R165, R57). -/
def execRd (addr : Addr) (_ign : Word) (s : State) : Result := .next (s.answer (s.block.readAddr addr))

end Sys2Proof.Machine
end

