-- ==== Sys2Proof/Machine/Checksum.lean ====
section
/-! DEFINITION. The `CHECKSUM` command (spec/40_checksum.md R104). -/

namespace Sys2Proof.Machine

/-- `CHECKSUM`: the checksum of the field registers into `CK_RESULT`; out of range leaves it unchanged (R104). -/
def execChecksum (s : State) : Result :=
  let b := s.block
  match firstOutOfRange b.fieldIn with
  | some k => s.finish (b.raiseOutOfRange k)
  | none => s.finish (b.setCkResult (checksum (fieldBytes b.fieldIn))).succeed

end Sys2Proof.Machine
end

