-- ==== Sys2Proof/Machine/FrameCodec.lean ====
section
/-! DEFINITION. The `ENCODE` and `DECODE` commands (spec/41_frame_codec.md R128, R129). -/

namespace Sys2Proof.Machine

/-- `ENCODE`: pack the field registers into `TX`; out of range clears `TX_VALID` and keeps the bytes (R128). -/
def execEncode (s : State) : Result :=
  let b := s.block
  match firstOutOfRange b.fieldIn with
  | some k => s.finish (b.invalidateTx.raiseOutOfRange k)
  | none => s.finish (b.loadTx (packFrame (fieldBytes b.fieldIn))).succeed

/-- `DECODE`: consume the receive buffer; ten bytes become the decoded frame, any other count fails (R129). -/
def execDecode (s : State) : Result :=
  let b := s.block
  if b.rxCount.toNat ≠ 10 then s.finish b.emptyRx.raiseShortFrame
  else s.finish (b.emptyRx.loadDec b.rxbuf).succeed

end Sys2Proof.Machine
end

