-- ==== Sys2Proof/Machine/Dispatch.lean ====
section
/-! DEFINITION. Dispatch: one arm per instruction, each a direct call of its meaning. -/

namespace Sys2Proof.Machine

def exec (i : Instr) (s : State) : Host.Outcome State Fault Refusal :=
  match i with
  | .nop => Sys2Proof.Machine.execNop s
  | .encode => Sys2Proof.Machine.execEncode s
  | .decode => Sys2Proof.Machine.execDecode s
  | .checksum => Sys2Proof.Machine.execChecksum s
  | .rxClear => Sys2Proof.Machine.execRxClear s
  | .cmdIllegal rsvd opc => Sys2Proof.Machine.execCmdIllegal rsvd opc s
  | .rxPush ign b => Sys2Proof.Machine.execRxPush ign b s
  | .wrFiStart v => Sys2Proof.Machine.execWrFiStart v s
  | .wrFiDev v => Sys2Proof.Machine.execWrFiDev v s
  | .wrFiCmd v => Sys2Proof.Machine.execWrFiCmd v s
  | .wrFiPrm v => Sys2Proof.Machine.execWrFiPrm v s
  | .wrFiErr v => Sys2Proof.Machine.execWrFiErr v s
  | .wrFiD3 v => Sys2Proof.Machine.execWrFiD3 v s
  | .wrFiD2 v => Sys2Proof.Machine.execWrFiD2 v s
  | .wrFiD1 v => Sys2Proof.Machine.execWrFiD1 v s
  | .wrFiD0 v => Sys2Proof.Machine.execWrFiD0 v s
  | .wrIgnored addr data => Sys2Proof.Machine.execWrIgnored addr data s
  | .rd addr ign => Sys2Proof.Machine.execRd addr ign s

end Sys2Proof.Machine
end

