-- ==== Sys2Proof/Machine/Bus.lean ====
section
/-! DEFINITION. One bus transaction, the unit of execution of the block: decoded, then executed whole before the next
is accepted (spec/20_memory.md R58, R59; spec/70_reset_and_hazards.md R250, R254). -/

namespace Sys2Proof.Machine

/-- Go on with the next state; a stop stays a stop. -/
def andThen (r : Result) (k : State → Result) : Result :=
  match r with
  | .next s => k s
  | .fault f => .fault f
  | .refused f => .refused f

/-- One transaction: with reset asserted it has no effect (R250), otherwise the decoded instruction runs. -/
def busTransaction (t : TxnWord) (s : State) : Result :=
  if s.resetIn then .next (s.underReset (decode t)) else exec (decode t) s

/-- An access at a platform address: a transaction where it lies in the block's window, nothing elsewhere (R50). -/
def busAccess (write : Bool) (p : Nat) (d : Word) (s : State) : Result :=
  match accessTxn write p d with
  | some t => busTransaction t s
  | none => .next s

/-- Transactions one after another, in bus order (R59). -/
def busSequence : List TxnWord → State → Result
  | [], s => .next s
  | t :: ts, s => andThen (busTransaction t s) (busSequence ts)

end Sys2Proof.Machine
end

