-- ==== Sys2Proof/Machine/Exchange.lean ====
section
/-! DEFINITION. The host environment (spec/43_exchange_host.md): the transport oracle (R182), the requests `OPEN`,
`CLOSE` and `SEND` (R183 to R194), and the send sequence bound onto block transactions (R195), one transaction,
transport call or decision a step (log entry 4). -/

namespace Sys2Proof.Machine

/-! ## The transport oracle (R182) -/

/-- A read answers 0 to `RESP_LEN` bytes: a longer answer is no answer of the transport. -/
def ReadAnswer.clip : ReadAnswer → ReadAnswer
  | .bytes bs => .bytes (bs.take Config.respLen)
  | .transportError => .transportError

/-- The answer to the next `open`, and the oracle after it. -/
def Transport.drawOpen (t : Transport) : OpenAnswer × Transport :=
  match t.opens with
  | a :: rest => (a, { t with opens := rest })
  | [] => (Config.freeOpen t.draws, { t with draws := t.draws + 1 })

/-- The answer to the next `write`, and the oracle after it. -/
def Transport.drawWrite (t : Transport) : WriteAnswer × Transport :=
  match t.writes with
  | a :: rest => (a, { t with writes := rest })
  | [] => (Config.freeWrite t.draws, { t with draws := t.draws + 1 })

/-- The answer to the next `read`, and the oracle after it. -/
def Transport.drawRead (t : Transport) : ReadAnswer × Transport :=
  match t.reads with
  | a :: rest => (ReadAnswer.clip a, { t with reads := rest })
  | [] => (ReadAnswer.clip (Config.freeRead t.draws), { t with draws := t.draws + 1 })

/-! ## Named updates of the host -/

/-- The host goes to a phase of the send sequence. -/
def HostEnv.goto (h : HostEnv) (p : HostPhase) : HostEnv := { h with phase := p }

/-- The exchange state changes (R185). -/
def HostEnv.setXState (h : HostEnv) (x : XState) : HostEnv := { h with session := { h.session with xstate := x } }

/-- The handle changes (R183, R184). -/
def HostEnv.setHandle (h : HostEnv) (k : Option Nat) : HostEnv := { h with session := { h.session with handle := k } }

/-- The response on display changes (R190). -/
def HostEnv.setResponse (h : HostEnv) (r : Frame × Bool) : HostEnv :=
  { h with session := { h.session with lastResponse := some r } }

/-- The requests still to be started. -/
def HostEnv.setRequests (h : HostEnv) (rs : List HostRequest) : HostEnv := { h with requests := rs }

/-- An outcome reaches the caller (R197). -/
def HostEnv.tell (h : HostEnv) (r : Report) : HostEnv := { h with reports := r :: h.reports }

/-- The exchange ends: state, outcome, and ready for the next request (R185, R197). -/
def HostEnv.endExchange (h : HostEnv) (x : XState) (r : Report) : HostEnv := ((h.setXState x).goto .ready).tell r

/-- A transport call is made (R182). -/
def HostEnv.call (h : HostEnv) (c : TransportCall) (t : Transport) : HostEnv :=
  { h with calls := c :: h.calls, transport := t }

/-- The presentation collaborator receives a record (R194). -/
def HostEnv.present (h : HostEnv) (f : FrameBytes) (flag : Option Bool) : HostEnv :=
  { h with presented :=
      { fields := Frame.ofBytes f, hexString := Config.hexString h.presented.length, checksumValid := flag } ::
        h.presented }

/-! ## Requests -/

/-- Call `open(port_name, BAUD)` with the handle absent (R183). -/
def HostEnv.openTransport (h : HostEnv) (portName : String) : HostEnv :=
  let called := h.call (.openPort portName h.baud) h.transport.drawOpen.2
  match h.transport.drawOpen.1 with
  | .handle k => (called.setHandle (some k)).tell .opened
  | .transportError => called.tell .transportError

/-- Call `close(handle)` and make the handle absent; the transport gives `close` no result (R184). -/
def HostEnv.closeTransport (h : HostEnv) (k : Nat) : HostEnv :=
  (h.call (.closePort k) h.transport).setHandle none

/-- `OPEN(port_name)` (R183). -/
def HostEnv.openRequest (h : HostEnv) (portName : String) : HostEnv :=
  match h.session.handle, h.openPolicy with
  | none, _ => h.openTransport portName
  | some _, .failAlreadyOpen => h.tell .alreadyOpen
  | some k, .closeThenOpen => (h.closeTransport k).openTransport portName

/-- `CLOSE` (R184). -/
def HostEnv.closeRequest (h : HostEnv) : HostEnv :=
  match h.session.handle with
  | some k => (h.closeTransport k).tell .closed
  | none => h.tell .closed

/-- A send without a handle: report `NotConnected`, no encode and no write (R186); the exchange state is then `Idle`,
whichever state the send found (R185, decision D39). -/
def HostEnv.refuseUnconnected (h : HostEnv) : HostEnv := (h.setXState .idle).tell .notConnected

/-- A send request: the connection check comes first (R186), then the send sequence begins (R195). -/
def HostEnv.sendRequest (h : HostEnv) (fields : FieldValues) : HostEnv :=
  match h.session.handle with
  | none => h.refuseUnconnected
  | some _ => h.goto (.loading fields 0)

/-- Start a request of the caller. -/
def HostEnv.startRequest (h : HostEnv) : HostRequest → HostEnv
  | .openPort portName => h.openRequest portName
  | .closePort => h.closeRequest
  | .send fields => h.sendRequest fields

/-! ## The send sequence (R195) -/

/-- After `SETF i`: the next field, or `ENCODE` after the ninth. -/
def HostEnv.afterLoad (h : HostEnv) (fields : FieldValues) (i : Fin 9) : HostEnv :=
  if next : i.val + 1 < 9 then h.goto (.loading fields ⟨i.val + 1, next⟩) else h.goto .encoding

/-- After reading `STATUS` behind `ENCODE`: `st[2:0] == 1` ends the exchange with `OutOfRange` (R187, R195),
otherwise the exchange is `Sending` (R185). -/
def HostEnv.afterStatus (h : HostEnv) (st : Word) : HostEnv :=
  if st.extractLsb' 0 3 = 1#3 then h.endExchange .idle .outOfRange
  else (h.setXState .sending).goto (.readingTx 0 (Vector.replicate 10 0#8))

/-- After reading `TX[j]`: the next byte, or the outbound record after the tenth (R194, R195). -/
def HostEnv.afterTxRead (h : HostEnv) (j : Fin 10) (got : FrameBytes) (v : Word) : HostEnv :=
  if next : j.val + 1 < 10 then h.goto (.readingTx ⟨j.val + 1, next⟩ (got.set j (lowByte v)))
  else (h.present (got.set j (lowByte v)) none).goto (.clearing (got.set j (lowByte v)))

/-- One call `write(handle, [B[0], ..., B[9]])` (R188). Without a handle, which no exchange reaches, `NotConnected`
(log entry 21). -/
def HostEnv.writeFrame (h : HostEnv) (f : FrameBytes) : HostEnv :=
  match h.session.handle with
  | none => h.endExchange .idle .notConnected
  | some k =>
    let called := h.call (.write k f.toList) h.transport.drawWrite.2
    match h.transport.drawWrite.1 with
    | .ok => (called.setXState .awaitingResponse).goto .awaiting
    | .transportError => called.endExchange .idle .transportError

/-- One call `read(handle, 10, READ_TIMEOUT)` (R189); a transport error ends the exchange (R192). -/
def HostEnv.readResponse (h : HostEnv) : HostEnv :=
  match h.session.handle with
  | none => h.endExchange .idle .notConnected
  | some k =>
    let called := h.call (.read k Config.respLen h.readTimeout) h.transport.drawRead.2
    match h.transport.drawRead.1 with
    | .bytes bs => called.goto (.pushing bs bs.length)
    | .transportError => called.endExchange .idle .transportError

/-- All bytes pushed: a short read is `Timeout` with no `DECODE` (R191, R195), ten bytes are decoded. -/
def HostEnv.afterPushes (h : HostEnv) (len : Nat) : HostEnv :=
  if len < 10 then h.endExchange .incomplete .timeout else h.goto .decoding

/-- After reading `DEC[j]`: the next byte, or `STATUS` after the tenth (R195). -/
def HostEnv.afterDecRead (h : HostEnv) (j : Fin 10) (got : FrameBytes) (v : Word) : HostEnv :=
  if next : j.val + 1 < 10 then h.goto (.readingDec ⟨j.val + 1, next⟩ (got.set j (lowByte v)))
  else h.goto (.readingFlag (got.set j (lowByte v)))

/-- Complete: `last_response <- (F, st[5] == 1)`, the inbound record, success whatever the flag (R190, R195). -/
def HostEnv.complete (h : HostEnv) (f : FrameBytes) (st : Word) : HostEnv :=
  let ok := st.getLsbD 5
  let r := Frame.ofBytes f
  ((h.setResponse (r, ok)).present f (some ok)).endExchange .complete (.ok r ok)

/-! ## One step of the host -/

/-- The host changes by itself, without a transaction. -/
def State.withHost (s : State) (h : HostEnv) : State := { s with host := h }

/-- The host issues one transaction and goes on with the value the block returned. -/
def hostIssue (t : TxnWord) (k : HostEnv → Word → HostEnv) (s : State) : Result :=
  andThen (busTransaction t s) fun s' => .next (s'.withHost (k s'.host (s'.readData.getD 0#16)))

/-- The next step of the exchange controller; with nothing in progress and nothing asked it does nothing. -/
def hostStep (s : State) : Result :=
  match s.host.phase with
  | .ready =>
    match s.host.requests with
    | [] => .next s
    | r :: rest => .next (s.withHost ((s.host.setRequests rest).startRequest r))
  | .loading fields i =>
    hostIssue (memWrite (Reg.fieldIn i).addr fields[i]) (fun h _ => h.afterLoad fields i) s
  | .encoding => hostIssue (memWrite Reg.cmd.addr 0x0001#16) (fun h _ => h.goto .checking) s
  | .checking => hostIssue (memRead Reg.status.addr) (fun h st => h.afterStatus st) s
  | .readingTx j got => hostIssue (memRead (Reg.tx j).addr) (fun h v => h.afterTxRead j got v) s
  | .clearing f => hostIssue (memWrite Reg.cmd.addr 0x0004#16) (fun h _ => h.goto (.writing f)) s
  | .writing f => .next (s.withHost (s.host.writeFrame f))
  | .awaiting => .next (s.withHost s.host.readResponse)
  | .pushing [] len => .next (s.withHost (s.host.afterPushes len))
  | .pushing (b :: rest) len =>
    hostIssue (memWrite Reg.rxData.addr (zext16 b)) (fun h _ => h.goto (.pushing rest len)) s
  | .decoding =>
    hostIssue (memWrite Reg.cmd.addr 0x0002#16)
      (fun h _ => h.goto (.readingDec 0 (Vector.replicate 10 0#8))) s
  | .readingDec j got => hostIssue (memRead (Reg.dec j).addr) (fun h v => h.afterDecRead j got v) s
  | .readingFlag f => hostIssue (memRead Reg.status.addr) (fun h st => h.complete f st) s

/-- One event at the block's edge (R59, R60, R250). -/
def takeEvent (e : Event) (s : State) : Result :=
  match e with
  | .transaction t => busTransaction t s
  | .access write p d => busAccess write p d s
  | .resetLine asserted => .next (s.driveReset asserted)
  | .hostTurn => hostStep s

end Sys2Proof.Machine
end

