-- ==== Sys2Proof/Machine/Step.lean ====
section
/-! DEFINITION. One step of the machine, and how an instruction is placed where the next step takes it. -/

namespace Sys2Proof.Machine

/-- One step: the oldest event that has arrived is taken whole (R58, R59). With none waiting, the exchange controller
is the one active agent (R237); with nothing asked of it the state stays as it is. -/
def step (s : State) : Host.Outcome State Fault Refusal :=
  match s.agenda with
  | [] => hostStep s
  | e :: rest => takeEvent e { s with agenda := rest }

/-- The transaction with these bits as the next event, the reset input released so that it takes effect
(log entry 2). -/
def State.withFetchWord (s : State) (nbits w : Nat) : State :=
  { s with resetIn := false, agenda := .transaction (BitVec.ofNat 25 (w % 2 ^ nbits)) :: s.agenda }

end Sys2Proof.Machine
end

