-- ==== Sys2Proof/Safety.lean ====
section
/-! DEFINITION. What claims are stated in: the range condition of the encode inputs, the instruction classes, and the
invariants of the block, of the host and of the whole machine. -/

namespace Sys2Proof.Machine

/-! ## Inputs and instruction classes -/

/-- `sint16(FIELD_IN[i])` is in 0 to 255 (R23). -/
def fieldOk (f : FieldValues) (i : Fin 9) : Prop := 0 ≤ f[i].toInt ∧ f[i].toInt ≤ 255

/-- Every field is in range. -/
def fieldsOk (f : FieldValues) : Prop := ∀ i : Fin 9, fieldOk f i

/-- `k` is the least index whose field is out of range (R29). -/
def firstBadField (f : FieldValues) (k : Fin 9) : Prop := ¬ fieldOk f k ∧ ∀ j : Fin 9, j < k → fieldOk f j

/-- The sum of the nine fields, read as integers, modulo 256 (R72, R100). -/
def fieldSum (f : FieldValues) : Byte :=
  BitVec.ofInt 8 (f[0].toInt + f[1].toInt + f[2].toInt + f[3].toInt + f[4].toInt + f[5].toInt + f[6].toInt +
    f[7].toInt + f[8].toInt)

/-- The sum of nine bytes modulo 256 (R72, R100). -/
def spanSum (f : FrameBytes) : Byte :=
  BitVec.ofNat 8 (f[0].toNat + f[1].toNat + f[2].toNat + f[3].toNat + f[4].toNat + f[5].toNat + f[6].toNat +
    f[7].toNat + f[8].toNat)

/-- The nine `WR_FI` instructions by field index (R164). -/
def fieldWrite (i : Fin 9) (v : Word) : Instr :=
  #v[Instr.wrFiStart v, Instr.wrFiDev v, Instr.wrFiCmd v, Instr.wrFiPrm v, Instr.wrFiErr v, Instr.wrFiD3 v,
    Instr.wrFiD2 v, Instr.wrFiD1 v, Instr.wrFiD0 v][i]

/-- The instructions that are commands: writes to `CMD`, legal or not (R17, R222). -/
def isCommand (i : Instr) : Prop :=
  i = .nop ∨ i = .encode ∨ i = .decode ∨ i = .checksum ∨ i = .rxClear ∨ ∃ r o, i = .cmdIllegal r o

/-- `n` steps of the machine, stopping at the first stop. -/
def runSteps : Nat → State → Result
  | 0, s => .next s
  | n + 1, s => andThen (step s) (runSteps n)

/-! ## Invariants -/

/-- `ERR_INDEX` is a field index when `ERR` is `OUT_OF_RANGE` and 0 otherwise (R29). -/
def Block.errorRecordInv (b : Block) : Prop :=
  (b.err = .outOfRange → b.errIndex.toNat ≤ 8) ∧ (b.err ≠ .outOfRange → b.errIndex = 0#4)

/-- A valid transmit frame carries its own checksum (R24, R58, R105). -/
def Block.txInv (b : Block) : Prop := b.txValid = true → validFrame b.tx = true

/-- The flags and the recomputed checksum describe the decoded frame (R30 to R32). -/
def Block.decInv (b : Block) : Prop :=
  (b.decValid = true → b.decCkCalc = checksum (ckSpan b.dec) ∧ b.ckValid = validFrame b.dec) ∧
    (b.decValid = false → b.ckValid = false)

/-- The invariant of the block's registers. -/
def Block.Inv (b : Block) : Prop := b.errorRecordInv ∧ b.txInv ∧ b.decInv

/-- The phases in which the exchange state is `Sending` (R185). -/
def HostPhase.isSending : HostPhase → Bool
  | .readingTx _ _ => true
  | .clearing _ => true
  | .writing _ => true
  | _ => false

/-- The phases in which the exchange state is `AwaitingResponse` (R185). -/
def HostPhase.isAwaiting : HostPhase → Bool
  | .awaiting => true
  | .pushing _ _ => true
  | .decoding => true
  | .readingDec _ _ => true
  | .readingFlag _ => true
  | _ => false

/-- The read of an exchange returned at most ten bytes, and at most those are still to be pushed (R182). -/
def HostPhase.pushInv : HostPhase → Prop
  | .pushing rest len => rest.length ≤ len ∧ len ≤ 10
  | _ => True

/-- The invariant of the host: an exchange runs with an open handle (R186), and the exchange state agrees with where
the send sequence stands (R181, R185). -/
def HostEnv.Inv (h : HostEnv) : Prop :=
  (h.phase ≠ .ready → h.session.handle.isSome = true) ∧
    (h.session.xstate = .sending ↔ h.phase.isSending = true) ∧
    (h.session.xstate = .awaitingResponse ↔ h.phase.isAwaiting = true) ∧
    h.phase.pushInv

/-- While reset is asserted the block is at its reset values (R250). -/
def State.resetInv (s : State) : Prop := s.resetIn = true → s.block = Block.reset

/-- The invariant of the whole machine. -/
def State.Inv (s : State) : Prop := s.block.Inv ∧ s.host.Inv ∧ s.resetInv

end Sys2Proof.Machine
end

