-- ==== Sys2Proof/Certificates/Slice0/Obligations.lean ====
section
/-! DEFINITION. The statements for the provers, in the order of OBLIGATIONS.json. -/

open Sys2Proof
open Sys2Proof.Machine

/-! ## Encodings -/

/-- R76, with the command words of R77 and R78: the operation each transaction word selects, first match wins. -/
def Obligations.TransactionWordDecoding : Prop :=
  ∀ t : TxnWord,
    let a : Addr := t.extractLsb' 16 8
    let d : Word := t.extractLsb' 0 16
    let rsvd : Byte := t.extractLsb' 8 8
    let opc : Byte := t.extractLsb' 0 8
    (t.getLsbD 24 = false → decode t = .rd a d) ∧
    (t.getLsbD 24 = true →
      (a = 0x00#8 →
        (rsvd ≠ 0#8 → decode t = .cmdIllegal rsvd opc) ∧
        (rsvd = 0#8 →
          (opc = 0x00#8 → decode t = .nop) ∧ (opc = 0x01#8 → decode t = .encode) ∧
          (opc = 0x02#8 → decode t = .decode) ∧ (opc = 0x03#8 → decode t = .checksum) ∧
          (opc = 0x04#8 → decode t = .rxClear) ∧
          (0x05 ≤ opc.toNat → decode t = .cmdIllegal rsvd opc))) ∧
      (a = 0x03#8 → decode t = .rxPush rsvd opc) ∧
      (∀ i : Fin 9, a.toNat = 0x10 + i.val → decode t = fieldWrite i d) ∧
      (a ≠ 0x00#8 → a ≠ 0x03#8 → ¬ (0x10 ≤ a.toNat ∧ a.toNat ≤ 0x18) → decode t = .wrIgnored a d))

/-- R74 to R80: decoding an encoded well-formed instruction gives it back, every operand at every value. -/
def Obligations.EncodeThenDecodeIsIdentity : Prop :=
  ∀ i : Instr, i.wellFormed = true → decode (encode i) = i

/-- R74 to R80: every transaction word is the encoding of the well-formed instruction it decodes to. -/
def Obligations.DecodeThenEncodeIsIdentity : Prop :=
  ∀ t : TxnWord, encode (decode t) = t ∧ (decode t).wellFormed = true

/-- The opcode table: the row of the decoded instruction matches the word, and every other matching row has a lower
priority (a greater priority number). -/
def Obligations.DecodeSelectsTableRow : Prop :=
  ∀ t : TxnWord,
    (decode t).row ∈ tableRows ∧ (decode t).row.matchesWord t = true ∧
    ∀ r ∈ tableRows, r.matchesWord t = true → r = (decode t).row ∨ (decode t).row.priority < r.priority

/-- Words written out from the encodings of R74, R78, R163 to R166 and the opcode table decode to their rows. -/
def Obligations.SampleWordsDecode : Prop :=
  decode 0x1000001#25 = .encode ∧ decode 0x1000003#25 = .checksum ∧
  decode 0x1000101#25 = .cmdIllegal 0x01#8 0x01#8 ∧ decode 0x103AB12#25 = .rxPush 0xAB#8 0x12#8 ∧
  decode 0x1120010#25 = .wrFiCmd 0x0010#16 ∧ decode 0x101FFFF#25 = .wrIgnored 0x01#8 0xFFFF#16 ∧
  decode 0x0390000#25 = .rd 0x39#8 0x0000#16

/-- The host's numbering of a table word (log entry 11, the model's choice): 32 bits in four bytes give the
transaction word of their low 25 bits when the other seven are zero, and are rejected otherwise. -/
def Obligations.TableWordIsTransactionWord : Prop :=
  ∀ w : Nat, w < 2 ^ 32 →
    decodeTableWord 32 w = if w < 2 ^ 25 then some (decode (BitVec.ofNat 25 w)) else none

/-- R84: the words of every pseudo-instruction; `LOAD` assembles to the nine field writes in field order, `PUSHF` to
ten pushes, `RDTX` and `RDDEC` to ten reads. -/
def Obligations.PseudoInstructionsExpand : Prop :=
  (assemble .nop = some [0x1000000#25] ∧ assemble .encode = some [0x1000001#25] ∧
    assemble .decode = some [0x1000002#25] ∧ assemble .cksum = some [0x1000003#25] ∧
    assemble .rxclr = some [0x1000004#25]) ∧
  (∀ b : Byte, assemble (.push b) = some [(0x10300#17 ++ b : TxnWord)]) ∧
  (∀ (i : Fin 9) (v : Int), -32768 ≤ v → v ≤ 65535 →
    assemble (.setf i v) = some [BitVec.ofNat 25 (0x1100000 + i.val * 2 ^ 16 + (BitVec.ofInt 16 v).toNat)]) ∧
  (∀ v : Vector Int 9, (∀ i : Fin 9, -32768 ≤ v[i] ∧ v[i] ≤ 65535) →
    ∃ ts, assemble (.load v) = some ts ∧
      ts.map decode = (List.finRange 9).map fun i => fieldWrite i (BitVec.ofInt 16 v[i])) ∧
  (∀ f : FrameBytes, ∃ ts, assemble (.pushf f) = some ts ∧
    ts.map decode = f.toList.map fun b => Instr.rxPush 0#8 b) ∧
  (∃ ts, assemble .rdtx = some ts ∧
    ts.map decode = (List.range 10).map fun j => Instr.rd (BitVec.ofNat 8 (0x20 + j)) 0#16) ∧
  (∃ ts, assemble .rddec = some ts ∧
    ts.map decode = (List.range 10).map fun j => Instr.rd (BitVec.ofNat 8 (0x30 + j)) 0#16)

/-! ## Steps -/

/-- R59, R254, on the event queue (log entry 1, the model's choice): when a transaction is the next event and reset is released, the step is exec of the instruction its
word decodes to, with that event taken and nothing else done. -/
def Obligations.StepRunsDecodedTransaction : Prop :=
  ∀ (s : State) (t : TxnWord) (rest : List Event), s.resetIn = false → s.agenda = .transaction t :: rest →
    step s = exec (decode t) { s with agenda := rest }

/-- R237 (log entry 20, the model's choice of an idle step): with no event waiting and nothing asked of the host, nothing happens. -/
def Obligations.NothingHappensUnasked : Prop :=
  ∀ s : State, s.agenda = [] → s.host.phase = .ready → s.host.requests = [] → step s = .next s

/-- R52, R226: every instruction answers a next state in every state, and what lies outside the block and the returned
value stays: no instruction drops or adds an event, moves the reset input or touches the host. -/
def Obligations.EveryInstructionCompletes : Prop :=
  ∀ (i : Instr) (s : State), ∃ t : State, exec i s = .next t ∧
    t.resetIn = s.resetIn ∧ t.agenda = s.agenda ∧ t.host = s.host

/-- R226: no step stops, whatever the state. -/
def Obligations.EveryStepCompletes : Prop :=
  ∀ s : State, ∃ t : State, step s = .next t

/-- R250: power-on and asserted reset give every piece of block state its reset value, a transaction under reset has no
effect, and nothing a host can issue is a software reset: no instruction moves the reset input, no command writes a
field register or the receive buffer, no instruction resets a block in which two field registers hold something, and
`RX_CLEAR` and `NOP` write only what their rules list. What an assertion leaves outside the block is said in
`TransactionAfterResetRelease`. -/
def Obligations.ResetInput : Prop :=
  State.reset.block = Block.reset ∧
  (∀ s : State, (s.driveReset true).block = Block.reset ∧ (s.driveReset true).resetIn = true) ∧
  (∀ (s : State) (t : TxnWord), s.resetIn = true →
    busTransaction t s = .next (if t.getLsbD 24 then s else { s with readData := some 0x0000#16 })) ∧
  (∀ (i : Instr) (s t : State), exec i s = .next t →
    t.resetIn = s.resetIn ∧
    (isCommand i → t.block.fieldIn = s.block.fieldIn ∧ t.block.rxbuf = s.block.rxbuf) ∧
    (∀ j k : Fin 9, j ≠ k → s.block.fieldIn[j] ≠ 0#16 → s.block.fieldIn[k] ≠ 0#16 → t.block ≠ Block.reset)) ∧
  (∀ s : State, exec .rxClear s =
    .next { s with block := { s.block with rxCount := 0#8, err := .none, errIndex := 0#4 } }) ∧
  (∀ s : State, exec .nop s = .next { s with block := { s.block with err := .none, errIndex := 0#4 } })

/-- R41: the value of every piece of block state at reset, and `STATUS` reads zero. -/
def Obligations.ResetValues : Prop :=
  (∀ i : Fin 9, State.reset.block.fieldIn[i] = 0x0000#16) ∧
  (∀ j : Fin 10, State.reset.block.tx[j] = 0x00#8 ∧ State.reset.block.rxbuf[j] = 0x00#8 ∧
    State.reset.block.dec[j] = 0x00#8) ∧
  State.reset.block.txValid = false ∧ State.reset.block.rxCount = 0#8 ∧ State.reset.block.decValid = false ∧
  State.reset.block.ckValid = false ∧ State.reset.block.decCkCalc = 0x00#8 ∧ State.reset.block.ckResult = 0x00#8 ∧
  State.reset.block.err = .none ∧ State.reset.block.errIndex = 0#4 ∧
  exec (.rd 0x01#8 0#16) State.reset = .next { State.reset with readData := some 0x0000#16 }

/-- R250, R252, on the event queue (log entries 1 and 16, the model's choice): an assertion of reset resets the block
alone, and once reset is released the very next transaction runs, on the block's reset values. -/
def Obligations.TransactionAfterResetRelease : Prop :=
  (∀ (s : State) (rest : List Event), s.agenda = .resetLine true :: rest →
    step s = .next { s with agenda := rest, block := Block.reset, resetIn := true }) ∧
  ∀ (s : State) (t : TxnWord) (rest : List Event), s.resetInv → s.resetIn = true →
    s.agenda = .resetLine false :: .transaction t :: rest →
    ∃ u : State, step s = .next u ∧ u.block = Block.reset ∧ u.resetIn = false ∧
      step u = exec (decode t) { s with resetIn := false, agenda := rest }

/-- R50 with an open `BASE_ADDR` (log entry 10): register address `a` is at platform address `BASE_ADDR + a`, and no other platform address reaches the
block. -/
def Obligations.PlatformWindow : Prop :=
  (∀ (s : State) (w : Bool) (a : Addr) (d : Word), busAccess w (Config.baseAddr + a.toNat) d s =
    busTransaction (makeTxn w a (if w then d else 0#16)) s) ∧
  (∀ (s : State) (w : Bool) (p : Nat) (d : Word), p < Config.baseAddr ∨ Config.baseAddr + 256 ≤ p →
    busAccess w p d s = .next s)

/-! ## Registers and reads -/

/-- R51: the address of every register; register and address correspond one to one, and exactly the listed addresses
are mapped. -/
def Obligations.RegisterMapOneToOne : Prop :=
  (Reg.cmd.addr = 0x00#8 ∧ Reg.status.addr = 0x01#8 ∧ Reg.rxCount.addr = 0x02#8 ∧ Reg.rxData.addr = 0x03#8 ∧
    Reg.ckResult.addr = 0x04#8 ∧ Reg.decCkCalc.addr = 0x05#8) ∧
  (∀ i : Fin 9, (Reg.fieldIn i).addr.toNat = 0x10 + i.val) ∧
  (∀ j : Fin 10, (Reg.tx j).addr.toNat = 0x20 + j.val ∧ (Reg.dec j).addr.toNat = 0x30 + j.val ∧
    (Reg.rxbuf j).addr.toNat = 0x40 + j.val) ∧
  (∀ r : Reg, Reg.ofAddr r.addr = some r) ∧
  (∀ (a : Addr) (r : Reg), Reg.ofAddr a = some r → r.addr = a) ∧
  (∀ a : Addr, Reg.ofAddr a = none ↔
    (0x06 ≤ a.toNat ∧ a.toNat ≤ 0x0F) ∨ (0x19 ≤ a.toNat ∧ a.toNat ≤ 0x1F) ∨ (0x2A ≤ a.toNat ∧ a.toNat ≤ 0x2F) ∨
    (0x3A ≤ a.toNat ∧ a.toNat ≤ 0x3F) ∨ 0x4A ≤ a.toNat)

/-- R165: what `RD` returns for every address, and that it changes nothing else. -/
def Obligations.ReadReturnsRegister : Prop :=
  ∀ (a : Addr) (ign : Word) (s : State), ∃ v : Word,
    decode (makeTxn false a ign) = .rd a ign ∧
    exec (.rd a ign) s = .next { s with readData := some v } ∧
    (a = 0x01#8 → v = s.block.status) ∧
    (a = 0x02#8 → v = 0x00#8 ++ s.block.rxCount) ∧
    (a = 0x04#8 → v = 0x00#8 ++ s.block.ckResult) ∧
    (a = 0x05#8 → v = 0x00#8 ++ s.block.decCkCalc) ∧
    (∀ i : Fin 9, a.toNat = 0x10 + i.val → v = s.block.fieldIn[i]) ∧
    (∀ j : Fin 10, a.toNat = 0x20 + j.val → v = 0x00#8 ++ s.block.tx[j]) ∧
    (∀ j : Fin 10, a.toNat = 0x30 + j.val → v = 0x00#8 ++ s.block.dec[j]) ∧
    (∀ k : Fin 10, a.toNat = 0x40 + k.val → v = 0x00#8 ++ s.block.rxbuf[k]) ∧
    (a = 0x00#8 ∨ a = 0x03#8 ∨ Reg.ofAddr a = none → v = 0x0000#16)

/-- R27: every field of `STATUS`, its value after reset, and that a write to it is ignored. -/
def Obligations.StatusFields : Prop :=
  (∀ b : Block,
    (b.err = .none → b.status.extractLsb' 0 3 = 0#3) ∧ (b.err = .outOfRange → b.status.extractLsb' 0 3 = 1#3) ∧
    (b.err = .shortFrame → b.status.extractLsb' 0 3 = 2#3) ∧
    (b.err = .illegalCommand → b.status.extractLsb' 0 3 = 3#3) ∧
    b.status.getLsbD 3 = b.txValid ∧ b.status.getLsbD 4 = b.decValid ∧ b.status.getLsbD 5 = b.ckValid ∧
    b.status.getLsbD 6 = decide (b.rxCount.toNat = 10) ∧ b.status.getLsbD 7 = decide (10 < b.rxCount.toNat) ∧
    b.status.extractLsb' 8 4 = b.errIndex ∧ b.status.extractLsb' 12 4 = 0#4) ∧
  Block.reset.status = 0x0000#16 ∧
  (∀ (d : Word) (s : State), exec (decode (makeTxn true 0x01#8 d)) s = .next s)

/-- R52: reads of unmapped addresses, of `CMD` and of `RX_DATA` return zero and change no state; writes to unmapped
addresses and to read-only registers change no state; no access faults. -/
def Obligations.UnmappedAndWrongDirection : Prop :=
  (∀ (a : Addr) (d : Word) (s : State), Reg.ofAddr a = none ∨ a = 0x00#8 ∨ a = 0x03#8 →
    exec (decode (makeTxn false a d)) s = .next { s with readData := some 0x0000#16 }) ∧
  (∀ (a : Addr) (d : Word) (s : State),
    (Reg.ofAddr a = none ∨ a = 0x01#8 ∨ a = 0x02#8 ∨ a = 0x04#8 ∨ a = 0x05#8 ∨
      (0x20 ≤ a.toNat ∧ a.toNat ≤ 0x29) ∨ (0x30 ≤ a.toNat ∧ a.toNat ≤ 0x39) ∨ (0x40 ≤ a.toNat ∧ a.toNat ≤ 0x49)) →
    exec (decode (makeTxn true a d)) s = .next s) ∧
  (∀ (t : TxnWord) (s : State), ∃ u : State, exec (decode t) s = .next u)

/-- R57 (reads): a read changes no register and repeats; writing the same value to a field register twice is the same
as writing it once. -/
def Obligations.ReadsAndFieldWritesIdempotent : Prop :=
  (∀ (a : Addr) (ign : Word) (s : State), ∃ t : State, exec (.rd a ign) s = .next t ∧ t.block = s.block ∧
    exec (.rd a ign) t = .next t) ∧
  (∀ (i : Fin 9) (v : Word) (s : State), ∃ t : State, exec (fieldWrite i v) s = .next t ∧
    exec (fieldWrite i v) t = .next t)

/-! ## The operations -/

/-- R166: a write to a read-only or unmapped address has no effect at all. -/
def Obligations.IgnoredWriteHasNoEffect : Prop :=
  (∀ (a : Addr) (d : Word), a ≠ 0x00#8 → a ≠ 0x03#8 → ¬ (0x10 ≤ a.toNat ∧ a.toNat ≤ 0x18) →
    decode (makeTxn true a d) = .wrIgnored a d) ∧
  (∀ (a : Addr) (d : Word) (s : State), exec (.wrIgnored a d) s = .next s)

/-- R164: `WR_FI` (all nine) stores the 16 bits as written, changes nothing else, and the value reads back. -/
def Obligations.FieldWriteStoresWord : Prop :=
  ∀ (i : Fin 9) (v : Word) (s : State),
    decode (BitVec.ofNat 25 (0x1100000 + i.val * 2 ^ 16 + v.toNat)) = fieldWrite i v ∧
    exec (fieldWrite i v) s = .next { s with block := { s.block with fieldIn := s.block.fieldIn.set i v } } ∧
    exec (.rd (BitVec.ofNat 8 (0x10 + i.val)) 0#16)
        { s with block := { s.block with fieldIn := s.block.fieldIn.set i v } } =
      .next { s with block := { s.block with fieldIn := s.block.fieldIn.set i v }, readData := some v }

/-- R160: `NOP` writes `ERR` and `ERR_INDEX` and nothing else. -/
def Obligations.NopRecordsSuccess : Prop :=
  decode 0x1000000#25 = .nop ∧
  ∀ s : State, exec .nop s = .next { s with block := { s.block with err := .none, errIndex := 0#4 } }

/-- R161: `RX_CLEAR` empties the buffer, records success, changes nothing else; the computed flags then read 0. -/
def Obligations.RxClearEmptiesBuffer : Prop :=
  decode 0x1000004#25 = .rxClear ∧
  ∀ s : State, ∃ t : State, exec .rxClear s = .next t ∧
    t = { s with block := { s.block with rxCount := 0#8, err := .none, errIndex := 0#4 } } ∧
    t.block.status.getLsbD 6 = false ∧ t.block.status.getLsbD 7 = false

/-- R162: which command words are illegal, and that they write `ERR` and `ERR_INDEX` only. -/
def Obligations.IllegalCommandRecorded : Prop :=
  (∀ d : Word, d.extractLsb' 8 8 ≠ 0#8 ∨ 5 ≤ (d.extractLsb' 0 8 : Byte).toNat →
    decode (makeTxn true 0x00#8 d) = .cmdIllegal (d.extractLsb' 8 8) (d.extractLsb' 0 8)) ∧
  (∀ (r o : Byte) (s : State), exec (.cmdIllegal r o) s =
    .next { s with block := { s.block with err := .illegalCommand, errIndex := 0#4 } })

/-- R163: `RX_PUSH` stores the byte while fewer than ten have arrived, counts it up to 255, and changes nothing
else. -/
def Obligations.RxPushAppendsByte : Prop :=
  (∀ ign b : Byte, decode (0x103#9 ++ ign ++ b) = .rxPush ign b) ∧
  ∀ (ign b : Byte) (s : State), ∃ t : State, exec (.rxPush ign b) s = .next t ∧
    (∀ h : s.block.rxCount.toNat < 10, t.block.rxbuf = s.block.rxbuf.set s.block.rxCount.toNat b) ∧
    (10 ≤ s.block.rxCount.toNat → t.block.rxbuf = s.block.rxbuf) ∧
    (s.block.rxCount.toNat < 255 → t.block.rxCount.toNat = s.block.rxCount.toNat + 1) ∧
    (s.block.rxCount.toNat = 255 → t.block.rxCount = s.block.rxCount) ∧
    t.block.status.getLsbD 6 = decide (s.block.rxCount.toNat = 9) ∧
    t.block.status.getLsbD 7 = decide (10 ≤ s.block.rxCount.toNat) ∧
    t = { s with block := { s.block with rxbuf := t.block.rxbuf, rxCount := t.block.rxCount } }

/-- R104: `CHECKSUM` on fields in range, and on fields out of range. -/
def Obligations.ChecksumCommand : Prop :=
  decode 0x1000003#25 = .checksum ∧
  (∀ s : State, fieldsOk s.block.fieldIn → exec .checksum s =
    .next { s with block :=
      { s.block with ckResult := fieldSum s.block.fieldIn, err := .none, errIndex := 0#4 } }) ∧
  (∀ (s : State) (k : Fin 9), firstBadField s.block.fieldIn k → exec .checksum s =
    .next { s with block := { s.block with err := .outOfRange, errIndex := BitVec.ofNat 4 k.val } })

/-- R128: `ENCODE` on fields in range, and on fields out of range. -/
def Obligations.EncodeCommand : Prop :=
  decode 0x1000001#25 = .encode ∧
  (∀ s : State, fieldsOk s.block.fieldIn → ∃ f : FrameBytes, exec .encode s =
      .next { s with block := { s.block with tx := f, txValid := true, err := .none, errIndex := 0#4 } } ∧
    (∀ i : Fin 9, f[i.val] = BitVec.ofInt 8 s.block.fieldIn[i].toInt) ∧ f[9] = fieldSum s.block.fieldIn ∧
    encodeFrame (s.block.fieldIn.map BitVec.toInt) = .ok f) ∧
  (∀ (s : State) (k : Fin 9), firstBadField s.block.fieldIn k → exec .encode s =
    .next { s with block :=
      { s.block with txValid := false, err := .outOfRange, errIndex := BitVec.ofNat 4 k.val } })

/-- R129: `DECODE` of ten bytes, and of any other count. -/
def Obligations.DecodeCommand : Prop :=
  decode 0x1000002#25 = .decode ∧
  (∀ s : State, s.block.rxCount = 10#8 → exec .decode s =
      .next { s with block := { s.block with
        rxCount := 0#8, dec := s.block.rxbuf, decCkCalc := spanSum s.block.rxbuf,
        ckValid := spanSum s.block.rxbuf == s.block.rxbuf[9], decValid := true,
        err := .none, errIndex := 0#4 } } ∧
    decodeFrame s.block.rxbuf.toList =
      .ok (Frame.ofBytes s.block.rxbuf, spanSum s.block.rxbuf == s.block.rxbuf[9])) ∧
  (∀ s : State, s.block.rxCount ≠ 10#8 → exec .decode s =
    .next { s with block := { s.block with rxCount := 0#8, err := .shortFrame, errIndex := 0#4 } })

/-! ## Errors and frames over all instructions -/

/-- R222: every command records its outcome, whatever was recorded before; no other transaction touches the record. -/
def Obligations.CommandsRecordOutcome : Prop :=
  ∀ (i : Instr) (s t : State), exec i s = .next t →
    (¬ isCommand i → t.block.err = s.block.err ∧ t.block.errIndex = s.block.errIndex) ∧
    (i = .nop ∨ i = .rxClear → t.block.err = .none ∧ t.block.errIndex = 0#4) ∧
    (i = .encode ∨ i = .checksum →
      (fieldsOk s.block.fieldIn → t.block.err = .none ∧ t.block.errIndex = 0#4) ∧
      (∀ k, firstBadField s.block.fieldIn k → t.block.err = .outOfRange ∧ t.block.errIndex.toNat = k.val)) ∧
    (i = .decode →
      (s.block.rxCount = 10#8 → t.block.err = .none ∧ t.block.errIndex = 0#4) ∧
      (s.block.rxCount ≠ 10#8 → t.block.err = .shortFrame ∧ t.block.errIndex = 0#4)) ∧
    (∀ r o, i = .cmdIllegal r o → t.block.err = .illegalCommand ∧ t.block.errIndex = 0#4)

/-- R223: `OUT_OF_RANGE` is recorded by `ENCODE` and `CHECKSUM` only, exactly when a field is out of range, and the
failing command writes no output except that `ENCODE` clears `TX_VALID`. -/
def Obligations.OutOfRangeCause : Prop :=
  ∀ (i : Instr) (s t : State), exec i s = .next t → isCommand i →
    (t.block.err = .outOfRange ↔ (i = .encode ∨ i = .checksum) ∧ ∃ k, ¬ fieldOk s.block.fieldIn k) ∧
    (t.block.err = .outOfRange →
      t = { s with block := { s.block with
        txValid := if i = .encode then false else s.block.txValid,
        err := t.block.err, errIndex := t.block.errIndex } })

/-- R224: `SHORT_FRAME` is recorded by `DECODE` only, exactly when the count is not ten, and the failing `DECODE`
writes the count, `ERR` and `ERR_INDEX` only. -/
def Obligations.ShortFrameCause : Prop :=
  ∀ (i : Instr) (s t : State), exec i s = .next t → isCommand i →
    (t.block.err = .shortFrame ↔ i = .decode ∧ s.block.rxCount ≠ 10#8) ∧
    (t.block.err = .shortFrame →
      t = { s with block := { s.block with rxCount := 0#8, err := .shortFrame, errIndex := t.block.errIndex } })

/-- R225: `ILLEGAL_COMMAND` is recorded by a `CMD` write exactly when its word is none of 0x0000 to 0x0004, and nothing
but `ERR` and `ERR_INDEX` is written. -/
def Obligations.IllegalCommandCause : Prop :=
  ∀ (d : Word) (s t : State), exec (decode (makeTxn true 0x00#8 d)) s = .next t →
    (t.block.err = .illegalCommand ↔ 4 < d.toNat) ∧
    (4 < d.toNat → t = { s with block := { s.block with err := .illegalCommand, errIndex := 0#4 } })

/-- R22 to R26, R30 to R33, R165: each register has the writers its rule names and no other. -/
def Obligations.EachRegisterHasItsWriters : Prop :=
  ∀ (i : Instr) (s t : State), exec i s = .next t →
    ((∀ k v, i ≠ fieldWrite k v) → t.block.fieldIn = s.block.fieldIn) ∧
    (i ≠ .encode → t.block.tx = s.block.tx ∧ t.block.txValid = s.block.txValid) ∧
    ((∀ x y, i ≠ .rxPush x y) → t.block.rxbuf = s.block.rxbuf) ∧
    ((∀ x y, i ≠ .rxPush x y) → i ≠ .decode → i ≠ .rxClear → t.block.rxCount = s.block.rxCount) ∧
    (i ≠ .decode → t.block.dec = s.block.dec ∧ t.block.decValid = s.block.decValid ∧
      t.block.ckValid = s.block.ckValid ∧ t.block.decCkCalc = s.block.decCkCalc) ∧
    (i ≠ .checksum → t.block.ckResult = s.block.ckResult) ∧
    ((∀ a d, i ≠ .rd a d) → t.readData = s.readData) ∧
    t.resetIn = s.resetIn ∧ t.agenda = s.agenda ∧ t.host = s.host

/-- The frame through the register map: after any transaction, every register address reads as before, except `STATUS`
and the addresses the instruction's rule writes. -/
def Obligations.RegisterReadsUnchangedElsewhere : Prop :=
  ∀ (i : Instr) (s t : State) (a : Addr), exec i s = .next t → a ≠ 0x01#8 →
    (i = .encode → ¬ (0x20 ≤ a.toNat ∧ a.toNat ≤ 0x29)) →
    (i = .decode → a ≠ 0x02#8 ∧ a ≠ 0x05#8 ∧ ¬ (0x30 ≤ a.toNat ∧ a.toNat ≤ 0x39)) →
    (i = .checksum → a ≠ 0x04#8) →
    (i = .rxClear → a ≠ 0x02#8) →
    (∀ x y, i = .rxPush x y → a ≠ 0x02#8 ∧ a.toNat ≠ 0x40 + s.block.rxCount.toNat) →
    (∀ k v, i = fieldWrite k v → a.toNat ≠ 0x10 + k.val) →
    t.block.readAddr a = s.block.readAddr a

/-- R37, the stored flags: set and cleared by the transactions the table names, by no other. -/
def Obligations.FlagsSetAndCleared : Prop :=
  ∀ (i : Instr) (s t : State), exec i s = .next t →
    (t.block.txValid ≠ s.block.txValid → i = .encode) ∧
    (i = .encode → (t.block.txValid = true ↔ t.block.err = .none)) ∧
    (t.block.decValid ≠ s.block.decValid → i = .decode ∧ t.block.err = .none ∧ t.block.decValid = true) ∧
    (i = .decode → t.block.err = .none → t.block.decValid = true) ∧
    (t.block.ckValid ≠ s.block.ckValid → i = .decode ∧ t.block.err = .none) ∧
    (i = .decode → t.block.err = .none → (t.block.ckValid = true ↔ spanSum t.block.dec = t.block.dec[9]))

/-- R58, R59: what a transaction does to the block and what it returns depend on the block alone, not on the host, the
waiting events or an earlier returned value. -/
def Obligations.TransactionDependsOnBlockAlone : Prop :=
  ∀ (i : Instr) (s₁ s₂ t₁ t₂ : State), s₁.block = s₂.block → exec i s₁ = .next t₁ → exec i s₂ = .next t₂ →
    t₁.block = t₂.block ∧ (∀ a d, i = .rd a d → t₁.readData = t₂.readData)

/-! ## The codec -/

/-- R102, R103: the checksum is the byte-wise modular sum, and the same for every permutation of its inputs. -/
def Obligations.ChecksumLaws : Prop :=
  (∀ bs : Vector Byte 9, (checksum bs).toNat = (bs.toList.map BitVec.toNat).sum % 256) ∧
  (∀ bs : Vector Byte 9, checksum bs = bs.toList.foldl (· + ·) 0#8) ∧
  (∀ as bs : Vector Byte 9, as.toList.Perm bs.toList → checksum as = checksum bs)

/-- R121, R122, R132: Encode is total on integers: it fails exactly when some input is outside 0 to 255. -/
def Obligations.EncodeFunction : Prop :=
  ∀ v : Vector Int 9,
    ((∃ i : Fin 9, v[i] < 0 ∨ 255 < v[i]) → encodeFrame v = .error .outOfRange) ∧
    ((∀ i : Fin 9, 0 ≤ v[i] ∧ v[i] ≤ 255) → ∃ f : FrameBytes, encodeFrame v = .ok f ∧
      (∀ i : Fin 9, (f[i.val].toNat : Int) = v[i]) ∧
      (f[9].toNat : Int) = (v[0] + v[1] + v[2] + v[3] + v[4] + v[5] + v[6] + v[7] + v[8]) % 256)

/-- R124 to R126: Decode fails exactly on lengths other than ten; a mismatch is reported, not a failure. -/
def Obligations.DecodeFunction : Prop :=
  (∀ buf : List Byte, buf.length ≠ 10 → decodeFrame buf = .error .shortFrame) ∧
  (∀ b : FrameBytes, decodeFrame b.toList =
    .ok ({ startByte := b[0], devId := b[1], cmdId := b[2], prmId := b[3], errorByte := b[4],
           data := #v[b[5], b[6], b[7], b[8]], checksum := b[9] }, spanSum b == b[9]))

/-- R120, R42: serialising a Frame and reading it back are inverse; the data view is big-endian (R86). -/
def Obligations.FrameSerialisation : Prop :=
  (∀ f : Frame, Frame.ofBytes f.serialize = f) ∧ (∀ b : FrameBytes, (Frame.ofBytes b).serialize = b) ∧
  (∀ b : FrameBytes, (Frame.ofBytes b).data32.toNat =
    b[5].toNat * 2 ^ 24 + b[6].toNat * 2 ^ 16 + b[7].toNat * 2 ^ 8 + b[8].toNat)

/-- R130: the round trip as functions, and on the registers: `ENCODE`, `RX_CLEAR`, ten pushes of `TX`, `DECODE`. -/
def Obligations.LoopbackRoundTrip : Prop :=
  (∀ (v : Vector Int 9) (f : FrameBytes), encodeFrame v = .ok f →
    decodeFrame f.toList = .ok (Frame.ofBytes f, true) ∧ ∀ i : Fin 9, (f[i.val].toNat : Int) = v[i]) ∧
  (∀ s : State, s.resetIn = false → fieldsOk s.block.fieldIn → ∃ u t : State,
    busSequence [0x1000001#25, 0x1000004#25] s = .next u ∧
    busSequence (u.block.tx.toList.map (fun b => (0x103#9 ++ 0x00#8 ++ b : TxnWord)) ++ [0x1000002#25]) u =
      .next t ∧
    t.block.dec = u.block.tx ∧ t.block.ckValid = true ∧ t.block.decValid = true ∧ t.block.err = .none)

/-- What the spec derives in R131: for any ten bytes `b`, re-encoding the fields of `Decode(b)` gives the first nine
bytes of `b` and their checksum, which is `b` exactly when the `checksum_valid` that `Decode` gives is true. -/
def Obligations.ReencodeDecodedFrame : Prop :=
  ∀ b : FrameBytes, ∃ (r : Frame) (valid : Bool) (f : FrameBytes),
    decodeFrame b.toList = .ok (r, valid) ∧
    encodeFrame #v[(r.startByte.toNat : Int), (r.devId.toNat : Int), (r.cmdId.toNat : Int), (r.prmId.toNat : Int),
      (r.errorByte.toNat : Int), (r.data[0].toNat : Int), (r.data[1].toNat : Int), (r.data[2].toNat : Int),
      (r.data[3].toNat : Int)] = .ok f ∧
    (∀ i : Fin 9, f[i.val] = b[i.val]) ∧ f[9] = spanSum b ∧ (f = b ↔ valid = true)

/-- What the spec derives in R105 and R106: packed frames are valid; one changed byte is always seen; a reordering of the first nine and
compensating changes never are. -/
def Obligations.DetectionPower : Prop :=
  (∀ bs : Vector Byte 9, validFrame (packFrame bs) = true) ∧
  (∀ b : FrameBytes, validFrame b = true →
    (b.toList.map BitVec.toNat).sum % 256 = 2 * b[9].toNat % 256) ∧
  (∀ (b : FrameBytes) (j : Fin 10) (x : Byte), validFrame b = true → x ≠ b[j] → validFrame (b.set j x) = false) ∧
  (∀ b d : FrameBytes, (b.toList.take 9).Perm (d.toList.take 9) → b[9] = d[9] → validFrame b = validFrame d) ∧
  (∀ b d : FrameBytes, b[9] = d[9] →
    (∃ k : Int, ((b.toList.take 9).map BitVec.toNat).sum - ((d.toList.take 9).map BitVec.toNat).sum = 256 * k) →
    validFrame b = validFrame d)

/-- R125, R129, R163: whatever bytes are pushed into an empty buffer, however many, `DECODE` agrees with the Decode
function on exactly those bytes. -/
def Obligations.PushThenDecodeAgrees : Prop :=
  ∀ (s : State) (bs : List Byte), s.resetIn = false → s.block.rxCount = 0#8 → ∃ t : State,
    busSequence (bs.map (fun b => (0x103#9 ++ 0x00#8 ++ b : TxnWord)) ++ [0x1000002#25]) s = .next t ∧
    t.block.rxCount = 0#8 ∧
    match decodeFrame bs with
    | .ok (f, valid) => Frame.ofBytes t.block.dec = f ∧ t.block.ckValid = valid ∧ t.block.decValid = true ∧
        t.block.err = .none
    | .error _ => t.block.dec = s.block.dec ∧ t.block.ckValid = s.block.ckValid ∧
        t.block.decValid = s.block.decValid ∧ t.block.decCkCalc = s.block.decCkCalc ∧ t.block.err = .shortFrame

/-! ## Invariants -/

/-- The machine's invariant: error record, transmit and decoded frames (R24, R29 to R32); on the model's host, an open
handle throughout an exchange and the exchange states `Sending` and `AwaitingResponse` exactly in the phases that
log entries 4 and 6 give them (the model's choice, with log entry 21 for the handle); and the block at its reset values
while reset is asserted (log entry 16). -/
def Obligations.StepKeepsInvariant : Prop :=
  ∀ s t : State, s.Inv → step s = .next t → t.Inv

/-- The invariant of `StepKeepsInvariant`, with its log entries 4, 6, 16 and 21, holds right after reset. -/
def Obligations.ResetMeetsInvariant : Prop := State.reset.Inv

/-! ## The host environment -/

/-- R186, with R185 and decision D39 for the state it leaves, on the model's host (log entries 4 and 7): a send without
a handle reports `NotConnected` and ends in `Idle`, from whichever exchange state, and does nothing else: no transaction,
no transport call, no record, the displayed response as it was. -/
def Obligations.SendWithoutHandle : Prop :=
  ∀ (s : State) (f : FieldValues) (rest : List HostRequest),
    s.agenda = [] → s.host.phase = .ready → s.host.requests = .send f :: rest → s.host.session.handle = none →
    step s = .next { s with host := { s.host with
      session := { s.host.session with xstate := .idle }, requests := rest,
      reports := .notConnected :: s.host.reports } }

/-- R183, on the model's host (log entries 4, 5, 19 and 22): `OPEN` with the handle absent, for a transport that answers a handle and one that answers an error, and with
a handle present under each `OPEN_POLICY`. -/
def Obligations.OpenRequest : Prop :=
  ∀ (s : State) (name : String) (rest : List HostRequest) (answers : List OpenAnswer),
    s.agenda = [] → s.host.phase = .ready → s.host.requests = .openPort name :: rest →
    (∀ n, s.host.session.handle = none → s.host.transport.opens = .handle n :: answers →
      ∃ t : State, step s = .next t ∧ t.block = s.block ∧ t.host.session.handle = some n ∧
        t.host.session.lastResponse = s.host.session.lastResponse ∧
        t.host.calls = .openPort name s.host.baud :: s.host.calls ∧ t.host.reports = .opened :: s.host.reports) ∧
    (s.host.session.handle = none → s.host.transport.opens = .transportError :: answers →
      ∃ t : State, step s = .next t ∧ t.block = s.block ∧ t.host.session = s.host.session ∧
        t.host.calls = .openPort name s.host.baud :: s.host.calls ∧
        t.host.reports = .transportError :: s.host.reports) ∧
    (∀ k, s.host.session.handle = some k → s.host.openPolicy = .failAlreadyOpen →
      step s = .next { s with host := { s.host with
        requests := rest, reports := .alreadyOpen :: s.host.reports } }) ∧
    (∀ k n, s.host.session.handle = some k → s.host.openPolicy = .closeThenOpen →
      s.host.transport.opens = .handle n :: answers →
      ∃ t : State, step s = .next t ∧ t.block = s.block ∧ t.host.session.handle = some n ∧
        t.host.calls = .openPort name s.host.baud :: .closePort k :: s.host.calls ∧
        t.host.reports = .opened :: s.host.reports) ∧
    (∀ k, s.host.session.handle = some k → s.host.openPolicy = .closeThenOpen →
      s.host.transport.opens = .transportError :: answers →
      ∃ t : State, step s = .next t ∧ t.block = s.block ∧ t.host.session.handle = none ∧
        t.host.calls = .openPort name s.host.baud :: .closePort k :: s.host.calls ∧
        t.host.reports = .transportError :: s.host.reports)

/-- R184, on the model's host (log entries 4 and 22): `CLOSE` with a handle calls close once and makes it absent; without one it succeeds and does nothing;
`last_response` stays. -/
def Obligations.CloseRequest : Prop :=
  ∀ (s : State) (rest : List HostRequest),
    s.agenda = [] → s.host.phase = .ready → s.host.requests = .closePort :: rest →
    (∀ k, s.host.session.handle = some k →
      step s = .next { s with host := { s.host with
        session := { s.host.session with handle := none }, requests := rest,
        calls := .closePort k :: s.host.calls, reports := .closed :: s.host.reports } }) ∧
    (s.host.session.handle = none →
      step s = .next { s with host := { s.host with
        requests := rest, reports := .closed :: s.host.reports } })

/-- R181, on the model's host (log entries 4 and 6): while an exchange is under way, from its first field write to its
last read, whatever the exchange state, no step starts another request; in particular (under the invariant) while the
exchange state is `Sending` or `AwaitingResponse`. -/
def Obligations.OneExchangeAtATime : Prop :=
  (∀ s t : State, s.host.phase ≠ .ready → step s = .next t → t.host.requests = s.host.requests) ∧
  ∀ s t : State, s.Inv → s.host.session.xstate = .sending ∨ s.host.session.xstate = .awaitingResponse →
    s.host.phase ≠ .ready ∧ (step s = .next t → t.host.requests = s.host.requests)

/-- R237, on the model's host (log entry 4): the host reaches the block through bus transactions only, at most one a step. -/
def Obligations.HostActsThroughTransactions : Prop :=
  ∀ s t : State, hostStep s = .next t →
    t.block = s.block ∨ ∃ (w : TxnWord) (u : State), busTransaction w s = .next u ∧ t.block = u.block

/-- R187, R195, on the model's host (log entries 4 and 17), twelve steps: a send whose fields are out of range loads them, encodes, reports `OutOfRange` and makes no transport
call; nothing is presented and the displayed response stays. -/
def Obligations.SendOutOfRange : Prop :=
  ∀ (s : State) (f : FieldValues) (rest : List HostRequest) (k : Nat) (bad : Fin 9),
    s.agenda = [] → s.resetIn = false → s.host.phase = .ready → s.host.requests = .send f :: rest →
    s.host.session.handle = some k → firstBadField f bad →
    ∃ t : State, runSteps 12 s = .next t ∧
      t.block = { s.block with
        fieldIn := f, txValid := false, err := .outOfRange, errIndex := BitVec.ofNat 4 bad.val } ∧
      t.host = { s.host with
        session := { s.host.session with xstate := .idle }, requests := rest,
        reports := .outOfRange :: s.host.reports }

/-- R185, R188, R195, on the model's host (log entries 4, 5 and 6): a send whose write the transport refuses reports `TransportError`, returns to `Idle` and never
reads; the outbound frame was presented. -/
def Obligations.SendWriteFails : Prop :=
  ∀ (s : State) (f : FieldValues) (rest : List HostRequest) (k : Nat) (answers : List WriteAnswer),
    s.agenda = [] → s.resetIn = false → s.host.phase = .ready → s.host.requests = .send f :: rest →
    s.host.session.handle = some k → fieldsOk f → s.host.transport.writes = .transportError :: answers →
    ∃ (t : State) (b : FrameBytes), runSteps 24 s = .next t ∧
      encodeFrame (f.map BitVec.toInt) = .ok b ∧ t.block.tx = b ∧ t.block.dec = s.block.dec ∧
      t.host.calls = .write k b.toList :: s.host.calls ∧
      t.host.session = { s.host.session with xstate := .idle } ∧ t.host.phase = .ready ∧
      t.host.requests = rest ∧ t.host.reports = .transportError :: s.host.reports ∧
      t.host.presented.map PresentedRecord.fields = Frame.ofBytes b :: s.host.presented.map PresentedRecord.fields

/-- R192, R195, on the model's host (log entries 4, 5 and 6): a read the transport refuses reports `TransportError`, returns to `Idle` and leaves the displayed
response. -/
def Obligations.SendReadFails : Prop :=
  ∀ (s : State) (f : FieldValues) (rest : List HostRequest) (k : Nat) (ws : List WriteAnswer) (rs : List ReadAnswer),
    s.agenda = [] → s.resetIn = false → s.host.phase = .ready → s.host.requests = .send f :: rest →
    s.host.session.handle = some k → fieldsOk f → s.host.transport.writes = .ok :: ws →
    s.host.transport.reads = .transportError :: rs →
    ∃ (t : State) (b : FrameBytes), runSteps 25 s = .next t ∧
      encodeFrame (f.map BitVec.toInt) = .ok b ∧ t.block.dec = s.block.dec ∧
      t.host.calls = .read k 10 s.host.readTimeout :: .write k b.toList :: s.host.calls ∧
      t.host.session = { s.host.session with xstate := .idle } ∧ t.host.phase = .ready ∧
      t.host.requests = rest ∧ t.host.reports = .transportError :: s.host.reports ∧
      t.host.presented.map PresentedRecord.fields = Frame.ofBytes b :: s.host.presented.map PresentedRecord.fields

/-- R191, R193, R195, on the model's host (log entries 4, 5, 6 and 18): a read of fewer than ten bytes reports `Timeout`, pushes them without decoding, and leaves the
displayed response and the decoded registers as they were; one write and one read were made. -/
def Obligations.SendShortReadTimesOut : Prop :=
  ∀ (s : State) (f : FieldValues) (rest : List HostRequest) (k : Nat) (ws : List WriteAnswer) (bs : List Byte)
    (rs : List ReadAnswer),
    s.agenda = [] → s.resetIn = false → s.host.phase = .ready → s.host.requests = .send f :: rest →
    s.host.session.handle = some k → fieldsOk f → s.host.transport.writes = .ok :: ws →
    s.host.transport.reads = .bytes bs :: rs → bs.length < 10 →
    ∃ (t : State) (b : FrameBytes), runSteps (26 + bs.length) s = .next t ∧
      encodeFrame (f.map BitVec.toInt) = .ok b ∧ t.block.dec = s.block.dec ∧
      t.block.decValid = s.block.decValid ∧ t.block.ckValid = s.block.ckValid ∧
      t.block.rxCount.toNat = bs.length ∧ t.block.err = .none ∧
      t.host.calls = .read k 10 s.host.readTimeout :: .write k b.toList :: s.host.calls ∧
      t.host.session = { s.host.session with xstate := .incomplete } ∧ t.host.phase = .ready ∧
      t.host.requests = rest ∧ t.host.reports = .timeout :: s.host.reports ∧
      t.host.presented.map PresentedRecord.fields = Frame.ofBytes b :: s.host.presented.map PresentedRecord.fields

/-- R190, R193, R195, on the model's host (log entries 4, 5 and 6): a read of ten bytes completes the exchange: the response is what Decode gives for those bytes,
reported whatever its flag, held as the last response and presented; one write of the encoded frame and one read were
made. -/
def Obligations.SendCompletes : Prop :=
  ∀ (s : State) (f : FieldValues) (rest : List HostRequest) (k : Nat) (ws : List WriteAnswer) (bs : FrameBytes)
    (rs : List ReadAnswer),
    s.agenda = [] → s.resetIn = false → s.host.phase = .ready → s.host.requests = .send f :: rest →
    s.host.session.handle = some k → fieldsOk f → s.host.transport.writes = .ok :: ws →
    s.host.transport.reads = .bytes bs.toList :: rs →
    ∃ (t : State) (b : FrameBytes) (r : Frame) (valid : Bool), runSteps 48 s = .next t ∧
      encodeFrame (f.map BitVec.toInt) = .ok b ∧ decodeFrame bs.toList = .ok (r, valid) ∧
      t.block.tx = b ∧ t.block.dec = bs ∧ t.block.ckValid = valid ∧ t.block.rxCount = 0#8 ∧
      t.host.calls = .read k 10 s.host.readTimeout :: .write k b.toList :: s.host.calls ∧
      t.host.session = { handle := some k, xstate := .complete, lastResponse := some (r, valid) } ∧
      t.host.phase = .ready ∧ t.host.requests = rest ∧ t.host.reports = .ok r valid :: s.host.reports ∧
      t.host.presented.map PresentedRecord.fields =
        r :: Frame.ofBytes b :: s.host.presented.map PresentedRecord.fields

/-! ## What STATUS foretells, and the host's start -/

/-- What the spec derives in R38: `RX_EXACT` in `STATUS` says that a `DECODE` now would succeed, `RX_OVER` that it would
fail with `SHORT_FRAME`; with neither set the buffer is short and it fails too. -/
def Obligations.StatusForetellsDecode : Prop :=
  ∀ s : State, ∃ t : State, exec .decode s = .next t ∧
    (s.block.status.getLsbD 6 = true → t.block.err = .none) ∧
    (s.block.status.getLsbD 7 = true → t.block.err = .shortFrame) ∧
    (s.block.status.getLsbD 6 = false → s.block.status.getLsbD 7 = false →
      s.block.rxCount.toNat < 10 ∧ t.block.err = .shortFrame)

/-- R251, with R180 and the parameter values of R183 and R11 (log entries 9 and 19): the host after reset, where a send
only reports `NotConnected`. -/
def Obligations.HostInitialState : Prop :=
  State.reset.host.session = { handle := none, xstate := .idle, lastResponse := none } ∧
  State.reset.host.openPolicy = .failAlreadyOpen ∧ State.reset.host.baud = 9600 ∧
  State.reset.host.readTimeout = 1000 ∧ State.reset.host.phase = .ready ∧ State.reset.host.requests = [] ∧
  (∀ f : FieldValues, step { State.reset with host := { State.reset.host with requests := [.send f] } } =
    .next { State.reset with host := { State.reset.host with reports := [.notConnected] } })
end

