-- ==== Sys2Proof/Laws/Operands.lean ====
section
/-! SUPPORT. What the operand forms compute: the range check finds the least failing index, and the byte taken from a
field in range is its value. -/

namespace Sys2Proof.Machine

theorem inByteRange_iff (x : Int) : inByteRange x = true ↔ 0 ≤ x ∧ x ≤ 255 := by
  simp [inByteRange]

theorem inByteRange_field (f : FieldValues) (i : Fin 9) : inByteRange (sint16 f[i]) = true ↔ fieldOk f i := by
  rw [inByteRange_iff]; rfl

/-- The order in which `firstOutOfRange` searches is the order of the indices. -/
theorem fieldIndices_eq : ([0, 1, 2, 3, 4, 5, 6, 7, 8] : List (Fin 9)) = List.finRange 9 := by decide

/-- All nine fields in range: nothing is found. -/
theorem firstOutOfRange_none {f : FieldValues} (h : fieldsOk f) : firstOutOfRange f = none := by
  simp only [firstOutOfRange, List.find?_eq_none]
  intro i _
  rw [(inByteRange_field f i).2 (h i)]
  decide

/-- The first field out of range is found. -/
theorem firstOutOfRange_some {f : FieldValues} {k : Fin 9} (h : firstBadField f k) :
    firstOutOfRange f = some k := by
  have bad : inByteRange (sint16 f[k]) = false := by
    simpa using mt (inByteRange_field f k).1 h.1
  have good : ∀ j : Fin 9, j < k → inByteRange (sint16 f[j]) = true := fun j hj =>
    (inByteRange_field f j).2 (h.2 j hj)
  rw [firstOutOfRange, fieldIndices_eq, List.find?_eq_some_iff_getElem]
  refine ⟨by rw [bad]; rfl, k.val, by simp, by simp, fun j hj => ?_⟩
  have g := good ⟨j, by omega⟩ hj
  simpa using g

/-- Either every field is in range or there is a first one that is not. -/
theorem fieldsOk_or_firstBad (f : FieldValues) : fieldsOk f ∨ ∃ k, firstBadField f k := by
  cases h : firstOutOfRange f with
  | none =>
    left
    intro i
    rw [firstOutOfRange, fieldIndices_eq, List.find?_eq_none] at h
    exact (inByteRange_field f i).1 (by simpa using h i (by simp))
  | some k =>
    right
    rw [firstOutOfRange, fieldIndices_eq, List.find?_eq_some_iff_getElem] at h
    obtain ⟨bad, n, hn, found, before⟩ := h
    have hk : k.val = n := by rw [← found]; simp
    refine ⟨k, fun ok => ?_, fun j hj => ?_⟩
    · rw [(inByteRange_field f k).2 ok] at bad
      exact absurd bad (by decide)
    · have g := before j.val (by rw [← hk]; exact hj)
      exact (inByteRange_field f j).1 (by simpa using g)

theorem firstBad_not_ok {f : FieldValues} {k : Fin 9} (h : firstBadField f k) : ¬ fieldsOk f := fun ok => h.1 (ok k)

/-- The low byte of a word is the word's value modulo 256. -/
theorem lowByte_eq_ofInt (v : Word) : lowByte v = BitVec.ofInt 8 v.toInt := by
  apply BitVec.eq_of_toNat_eq
  simp only [lowByte, BitVec.extractLsb'_toNat, BitVec.toNat_ofInt, BitVec.toInt_eq_toNat_bmod, Nat.shiftRight_zero]
  rw [Int.bmod_def]
  have := v.isLt
  split <;> omega

/-- A field in range holds its own low byte. -/
theorem lowByte_toNat_of_ok {f : FieldValues} {i : Fin 9} (h : fieldOk f i) :
    ((lowByte f[i]).toNat : Int) = f[i].toInt := by
  rw [lowByte_eq_ofInt]
  simp only [BitVec.toNat_ofInt]
  obtain ⟨h0, h1⟩ := h
  omega

@[simp] theorem errIndexOf_toNat (i : Fin 9) : (errIndexOf i).toNat = i.val := by
  simp only [errIndexOf, BitVec.toNat_ofNat]; omega

@[simp] theorem lowByte_zext16 (b : Byte) : lowByte (zext16 b) = b := by
  apply BitVec.eq_of_toNat_eq
  have := b.isLt
  simp [lowByte, zext16, BitVec.extractLsb'_toNat]
  omega

@[simp] theorem highByte_zext16 (b : Byte) : highByte (zext16 b) = 0#8 := by
  apply BitVec.eq_of_getLsbD_eq
  intro i hi
  simp [highByte, zext16, BitVec.getLsbD_extractLsb', BitVec.getLsbD_setWidth]

theorem zext16_eq_append (b : Byte) : zext16 b = 0x00#8 ++ b := by
  apply BitVec.eq_of_getLsbD_eq
  intro i hi
  simp only [zext16, BitVec.getLsbD_setWidth, BitVec.getLsbD_append]
  by_cases h : i < 8
  · simp [h, hi]
  · simp [h, BitVec.getLsbD_of_ge b i (by omega)]

/-- A byte of `fieldBytes`. -/
@[simp] theorem fieldBytes_getElem (f : FieldValues) (i : Nat) (h : i < 9) : (fieldBytes f)[i] = lowByte f[i] := by
  have : i = 0 ∨ i = 1 ∨ i = 2 ∨ i = 3 ∨ i = 4 ∨ i = 5 ∨ i = 6 ∨ i = 7 ∨ i = 8 := by omega
  rcases this with h | h | h | h | h | h | h | h | h <;> subst h <;> rfl

end Sys2Proof.Machine
end

