-- ==== Sys2Proof/Laws/Codec.lean ====
section
/-! SUPPORT. The codec functions: the checksum as an explicit sum, packed frames, and the Frame record as another view
of ten bytes. -/

namespace Sys2Proof.Machine

/-- The checksum as the sum of its nine bytes. -/
theorem checksum_toNat (bs : Vector Byte 9) : (checksum bs).toNat = (bs.toList.map BitVec.toNat).sum % 256 := by
  simp [checksum]

/-- The elements of a vector of nine, one by one. -/
theorem vector9_cases {α : Type} (v : Vector α 9) :
    v = #v[v[0], v[1], v[2], v[3], v[4], v[5], v[6], v[7], v[8]] := by
  ext i hi
  have : i = 0 ∨ i = 1 ∨ i = 2 ∨ i = 3 ∨ i = 4 ∨ i = 5 ∨ i = 6 ∨ i = 7 ∨ i = 8 := by omega
  rcases this with h | h | h | h | h | h | h | h | h <;> subst h <;> rfl

/-- The elements of a vector of ten, one by one. -/
theorem vector10_cases {α : Type} (v : Vector α 10) :
    v = #v[v[0], v[1], v[2], v[3], v[4], v[5], v[6], v[7], v[8], v[9]] := by
  ext i hi
  have : i = 0 ∨ i = 1 ∨ i = 2 ∨ i = 3 ∨ i = 4 ∨ i = 5 ∨ i = 6 ∨ i = 7 ∨ i = 8 ∨ i = 9 := by omega
  rcases this with h | h | h | h | h | h | h | h | h | h <;> subst h <;> rfl

@[simp] theorem ckSpan_getElem (f : FrameBytes) (i : Nat) (h : i < 9) : (ckSpan f)[i] = f[i] := by
  simp [ckSpan]

@[simp] theorem packFrame_span (bs : Vector Byte 9) (i : Nat) (h : i < 9) : (packFrame bs)[i] = bs[i] := by
  simp [packFrame, Vector.getElem_push_lt, h]

@[simp] theorem packFrame_check (bs : Vector Byte 9) : (packFrame bs)[9] = checksum bs := by
  simp [packFrame]

@[simp] theorem ckSpan_packFrame (bs : Vector Byte 9) : ckSpan (packFrame bs) = bs := by
  ext i hi
  simp [hi]

/-- The checksum of nine bytes, as one sum. -/
theorem checksum_eq_sum (v : Vector Byte 9) :
    checksum v = BitVec.ofNat 8 (v[0].toNat + v[1].toNat + v[2].toNat + v[3].toNat + v[4].toNat + v[5].toNat +
      v[6].toNat + v[7].toNat + v[8].toNat) := by
  conv_lhs => rw [vector9_cases v]
  simp [checksum, Nat.add_assoc]

/-- The recomputed checksum of a frame is the sum of R72. -/
theorem checksum_ckSpan (f : FrameBytes) : checksum (ckSpan f) = spanSum f := by
  rw [checksum_eq_sum]; simp [spanSum]

/-- The checksum of the low bytes of the fields is the sum of the fields modulo 256. -/
theorem checksum_fieldBytes (f : FieldValues) : checksum (fieldBytes f) = fieldSum f := by
  rw [checksum_eq_sum]
  simp only [fieldBytes_getElem, lowByte_eq_ofInt, fieldSum, BitVec.ofNat_add, BitVec.ofInt_add,
    BitVec.ofNat_toNat, BitVec.setWidth_eq]

/-- A byte of `intBytes`. -/
@[simp] theorem intBytes_getElem (v : Vector Int 9) (i : Nat) (h : i < 9) : (intBytes v)[i] = BitVec.ofInt 8 v[i] := by
  have : i = 0 ∨ i = 1 ∨ i = 2 ∨ i = 3 ∨ i = 4 ∨ i = 5 ∨ i = 6 ∨ i = 7 ∨ i = 8 := by omega
  rcases this with h | h | h | h | h | h | h | h | h <;> subst h <;> rfl

/-- The checksum of the low bytes of nine integers is their sum modulo 256. -/
theorem checksum_ofInt (v : Vector Int 9) :
    checksum (intBytes v) =
      BitVec.ofInt 8 (v[0] + v[1] + v[2] + v[3] + v[4] + v[5] + v[6] + v[7] + v[8]) := by
  rw [checksum_eq_sum]
  simp only [intBytes_getElem, BitVec.ofNat_add, BitVec.ofInt_add, BitVec.ofNat_toNat, BitVec.setWidth_eq]

@[simp] theorem validFrame_packFrame (bs : Vector Byte 9) : validFrame (packFrame bs) = true := by
  simp [validFrame]

theorem validFrame_iff (f : FrameBytes) : validFrame f = true ↔ spanSum f = f[9] := by
  simp [validFrame, checksum_ckSpan]

@[simp] theorem Frame.ofBytes_serialize (f : Frame) : Frame.ofBytes f.serialize = f := by
  obtain ⟨s, d, c, p, e, x, k⟩ := f
  simp only [Frame.serialize, Frame.ofBytes, Frame.mk.injEq]
  refine ⟨rfl, rfl, rfl, rfl, rfl, ?_, rfl⟩
  ext i hi
  have : i = 0 ∨ i = 1 ∨ i = 2 ∨ i = 3 := by omega
  rcases this with h | h | h | h <;> subst h <;> rfl

@[simp] theorem Frame.serialize_ofBytes (b : FrameBytes) : (Frame.ofBytes b).serialize = b := by
  conv_rhs => rw [vector10_cases b]
  rfl

/-- Decode of ten bytes (R124). -/
@[simp] theorem decodeFrame_toList (b : FrameBytes) :
    decodeFrame b.toList = .ok (Frame.ofBytes b, validFrame b) := by
  have h : b.toList.length = 10 := by simp
  have hb : (⟨b.toList.toArray, by simp⟩ : FrameBytes) = b := by
    apply Vector.toArray_inj.1
    show b.toArray.toList.toArray = b.toArray
    simp
  simp only [decodeFrame, h, ↓reduceDIte, hb]

/-- Decode of any other length (R125). -/
theorem decodeFrame_short {buf : List Byte} (h : buf.length ≠ 10) : decodeFrame buf = .error .shortFrame := by
  simp [decodeFrame, h]

/-- Encode succeeds on nine inputs in range (R121). -/
theorem encodeFrame_ok {v : Vector Int 9} (h : ∀ i : Fin 9, 0 ≤ v[i] ∧ v[i] ≤ 255) :
    encodeFrame v = .ok (packFrame (intBytes v)) := by
  have : v.toList.all inByteRange = true := by
    rw [Vector.all_toList, Vector.all_eq_true]
    intro i hi
    exact (inByteRange_iff _).2 (h ⟨i, hi⟩)
  simp [encodeFrame, this]

/-- Encode fails on an input out of range (R122). -/
theorem encodeFrame_error {v : Vector Int 9} (h : ∃ i : Fin 9, v[i] < 0 ∨ 255 < v[i]) :
    encodeFrame v = .error .outOfRange := by
  obtain ⟨i, hi⟩ := h
  have : ¬ v.toList.all inByteRange = true := by
    rw [Vector.all_toList, Vector.all_eq_true]
    intro all
    have := (inByteRange_iff _).1 (all i.val i.isLt)
    simp only [Fin.getElem_fin] at hi
    omega
  simp [encodeFrame, this]

/-- Encode of the field registers packs their low bytes (R128). -/
theorem encodeFrame_fields {f : FieldValues} (h : fieldsOk f) :
    encodeFrame (f.map BitVec.toInt) = .ok (packFrame (fieldBytes f)) := by
  rw [encodeFrame_ok fun i => by simpa [fieldOk] using h i]
  congr 2
  ext i hi
  simp [fieldBytes_getElem, intBytes_getElem, lowByte_eq_ofInt]

end Sys2Proof.Machine
end

