-- ==== Sys2Proof/Laws/Decode.lean ====
section
/-! SUPPORT. The small lemmas of the transaction word: its fields, the word of its fields, and the command word. -/

namespace Sys2Proof

@[simp] theorem makeTxn_isWrite (w : Bool) (a : Addr) (d : Word) : (makeTxn w a d).isWrite = w := by
  simp only [makeTxn, TxnWord.isWrite, BitVec.getLsbD_append]
  cases w <;> rfl

@[simp] theorem makeTxn_addr (w : Bool) (a : Addr) (d : Word) : (makeTxn w a d).addr = a := by
  apply BitVec.eq_of_getLsbD_eq
  intro i hi
  simp only [makeTxn, TxnWord.addr, BitVec.getLsbD_extractLsb', BitVec.getLsbD_append]
  simp [hi, show ¬ (16 + i < 16) by omega]

@[simp] theorem makeTxn_data (w : Bool) (a : Addr) (d : Word) : (makeTxn w a d).data = d := by
  apply BitVec.eq_of_getLsbD_eq
  intro i hi
  simp only [makeTxn, TxnWord.data, BitVec.getLsbD_extractLsb', BitVec.getLsbD_append]
  simp [hi]

@[simp] theorem makeCommand_high (r o : Byte) : highByte (makeCommand r o) = r := by
  apply BitVec.eq_of_getLsbD_eq
  intro i hi
  simp only [makeCommand, highByte, BitVec.getLsbD_extractLsb', BitVec.getLsbD_append]
  simp [hi]

@[simp] theorem makeCommand_low (r o : Byte) : lowByte (makeCommand r o) = o := by
  apply BitVec.eq_of_getLsbD_eq
  intro i hi
  simp only [makeCommand, lowByte, BitVec.getLsbD_extractLsb', BitVec.getLsbD_append]
  simp [hi]

/-- A word is the word of its fields: the three fields of R74 cover all 25 bits. -/
theorem makeTxn_fields (t : TxnWord) : makeTxn t.isWrite t.addr t.data = t := by
  apply BitVec.eq_of_getLsbD_eq
  intro i hi
  simp only [makeTxn, TxnWord.isWrite, TxnWord.addr, TxnWord.data, BitVec.getLsbD_extractLsb',
    BitVec.getLsbD_append, BitVec.getLsbD_ofBool]
  by_cases h16 : i < 16
  · simp [h16]
  · by_cases h24 : i - 16 < 8
    · simp [h16, h24, show 16 + (i - 16) = i by omega]
    · have : i = 24 := by omega
      subst this
      simp

/-- A command word is the word of its two fields (R77). -/
theorem makeCommand_fields (d : Word) : makeCommand (highByte d) (lowByte d) = d := by
  apply BitVec.eq_of_getLsbD_eq
  intro i hi
  simp only [makeCommand, highByte, lowByte, BitVec.getLsbD_extractLsb', BitVec.getLsbD_append]
  by_cases h8 : i < 8
  · simp [h8]
  · simp [h8, show i - 8 < 8 by omega, show 8 + (i - 8) = i by omega]

/-- Decoding the word of three fields. -/
@[simp] theorem decode_makeTxn (w : Bool) (a : Addr) (d : Word) :
    decode (makeTxn w a d) = if w then decodeWrite a d else .rd a d := by
  simp [decode]

/-- The word of an `RX_PUSH`: the digits `103`, the ignored byte, the byte (R163). -/
theorem pushWord_eq (g b : Byte) : (0x103#9 ++ g ++ b : TxnWord) = makeTxn true 0x03#8 (makeCommand g b) := by
  have top : (0x103#9 : BitVec 9) = 1#1 ++ 0x03#8 := by decide
  apply BitVec.eq_of_getLsbD_eq
  intro i hi
  simp only [makeTxn, makeCommand, BitVec.getLsbD_append, top]
  by_cases h8 : i < 8
  · simp [h8, show i < 16 by omega]
  · by_cases h16 : i < 16
    · simp [h8, h16, show i - 8 < 8 by omega]
    · simp [h8, h16, show ¬ i - 8 < 8 by omega, show i - 8 - 8 = i - 16 by omega]

/-- Decoding the word of an `RX_PUSH`. -/
@[simp] theorem decode_pushWord (g b : Byte) : decode (0x103#9 ++ g ++ b : TxnWord) = .rxPush g b := by
  rw [pushWord_eq, decode_makeTxn]
  simp [decodeWrite]

/-- Words agree exactly when their fields do. -/
theorem makeTxn_inj (w w' : Bool) (a a' : Addr) (d d' : Word) :
    makeTxn w a d = makeTxn w' a' d' ↔ w = w' ∧ a = a' ∧ d = d' := by
  constructor
  · intro h
    exact ⟨by simpa using congrArg TxnWord.isWrite h, by simpa using congrArg TxnWord.addr h,
      by simpa using congrArg TxnWord.data h⟩
  · rintro ⟨rfl, rfl, rfl⟩; rfl

/-- Masking works field by field. -/
theorem makeTxn_and (w w' : Bool) (a a' : Addr) (d d' : Word) :
    makeTxn w a d &&& makeTxn w' a' d' = makeTxn (w && w') (a &&& a') (d &&& d') := by
  have outer := BitVec.and_append (x₁ := BitVec.ofBool w ++ a) (x₂ := BitVec.ofBool w' ++ a') (y₁ := d) (y₂ := d')
  have inner := BitVec.and_append (x₁ := BitVec.ofBool w) (x₂ := BitVec.ofBool w') (y₁ := a) (y₂ := a')
  refine outer.trans ?_
  rw [inner]
  cases w <;> cases w' <;> rfl

/-- A row of all writes to one address matches exactly those words. -/
theorem addressRow_matches (m : String) (a₀ : Addr) (p : Nat) (t : TxnWord) :
    (addressRow m (makeTxn true a₀ 0#16) p).matchesWord t = true ↔ t.isWrite = true ∧ t.addr = a₀ := by
  have mask : (0x1FF0000#25 : TxnWord) = makeTxn true 0xFF#8 0x0000#16 := by decide
  have all (a : Addr) : a &&& 0xFF#8 = a := BitVec.and_allOnes
  have none (d : Word) : d &&& 0x0000#16 = 0x0000#16 := BitVec.and_zero
  rw [← makeTxn_fields t]
  simp only [TableRow.matchesWord, addressRow, mask, makeTxn_and, beq_iff_eq, makeTxn_inj, all, none, Bool.and_true,
    and_true, makeTxn_isWrite, makeTxn_addr]

/-- A row of one whole word matches exactly that word. -/
theorem commandRow_matches (m : String) (w t : TxnWord) :
    (commandRow m w).matchesWord t = true ↔ t = w := by
  have all : t &&& (0x1FFFFFF#25 : TxnWord) = t := BitVec.and_allOnes
  simp only [TableRow.matchesWord, commandRow, all, beq_iff_eq]

/-- The `RD` row matches the reads, the `WR_IGNORED` row all writes. -/
theorem directionRow_matches (m : String) (w : Bool) (p : Nat) (t : TxnWord) :
    TableRow.matchesWord
      { mnemonic := m, mask := 0x1000000#25, pattern := makeTxn w 0x00#8 0x0000#16, priority := p } t = true ↔
      t.isWrite = w := by
  have mask : (0x1000000#25 : TxnWord) = makeTxn true 0x00#8 0x0000#16 := by decide
  have noneA (a : Addr) : a &&& 0x00#8 = 0x00#8 := BitVec.and_zero
  have noneD (d : Word) : d &&& 0x0000#16 = 0x0000#16 := BitVec.and_zero
  rw [← makeTxn_fields t]
  simp only [TableRow.matchesWord, mask, makeTxn_and, beq_iff_eq, makeTxn_inj, noneA, noneD, Bool.and_true, and_true,
    makeTxn_isWrite]

/-- What it means for a word to match an instruction's row, in the word's fields. -/
def rowHolds (i : Instr) (t : TxnWord) : Prop :=
  match i with
  | .nop => t = 0x1000000#25
  | .encode => t = 0x1000001#25
  | .decode => t = 0x1000002#25
  | .checksum => t = 0x1000003#25
  | .rxClear => t = 0x1000004#25
  | .cmdIllegal _ _ => t.isWrite = true ∧ t.addr = 0x00#8
  | .rxPush _ _ => t.isWrite = true ∧ t.addr = 0x03#8
  | .wrFiStart _ => t.isWrite = true ∧ t.addr = 0x10#8
  | .wrFiDev _ => t.isWrite = true ∧ t.addr = 0x11#8
  | .wrFiCmd _ => t.isWrite = true ∧ t.addr = 0x12#8
  | .wrFiPrm _ => t.isWrite = true ∧ t.addr = 0x13#8
  | .wrFiErr _ => t.isWrite = true ∧ t.addr = 0x14#8
  | .wrFiD3 _ => t.isWrite = true ∧ t.addr = 0x15#8
  | .wrFiD2 _ => t.isWrite = true ∧ t.addr = 0x16#8
  | .wrFiD1 _ => t.isWrite = true ∧ t.addr = 0x17#8
  | .wrFiD0 _ => t.isWrite = true ∧ t.addr = 0x18#8
  | .wrIgnored _ _ => t.isWrite = true
  | .rd _ _ => t.isWrite = false

/-- The row of an instruction matches exactly the words `rowHolds` describes. -/
theorem row_matches_iff (i : Instr) (t : TxnWord) : i.row.matchesWord t = true ↔ rowHolds i t := by
  cases i
  case nop => exact commandRow_matches _ _ _
  case encode => exact commandRow_matches _ _ _
  case decode => exact commandRow_matches _ _ _
  case checksum => exact commandRow_matches _ _ _
  case rxClear => exact commandRow_matches _ _ _
  case wrIgnored => exact directionRow_matches _ true _ _
  case rd => exact directionRow_matches _ false _ _
  case cmdIllegal => exact addressRow_matches _ 0x00#8 _ _
  case rxPush => exact addressRow_matches _ 0x03#8 _ _
  case wrFiStart => exact addressRow_matches _ 0x10#8 _ _
  case wrFiDev => exact addressRow_matches _ 0x11#8 _ _
  case wrFiCmd => exact addressRow_matches _ 0x12#8 _ _
  case wrFiPrm => exact addressRow_matches _ 0x13#8 _ _
  case wrFiErr => exact addressRow_matches _ 0x14#8 _ _
  case wrFiD3 => exact addressRow_matches _ 0x15#8 _ _
  case wrFiD2 => exact addressRow_matches _ 0x16#8 _ _
  case wrFiD1 => exact addressRow_matches _ 0x17#8 _ _
  case wrFiD0 => exact addressRow_matches _ 0x18#8 _ _

end Sys2Proof
end

