-- ==== Sys2Proof/Laws/State.lean ====
section
/-! SUPPORT. One lemma per field per named update, true by rfl: no later proof unfolds a record update. -/

namespace Sys2Proof.Machine

/-! ## The block -/

@[simp] theorem Block.record_fieldIn (b : Block) (e : ErrCode) (k : BitVec 4) : (b.record e k).fieldIn = b.fieldIn := rfl
@[simp] theorem Block.record_tx (b : Block) (e : ErrCode) (k : BitVec 4) : (b.record e k).tx = b.tx := rfl
@[simp] theorem Block.record_txValid (b : Block) (e : ErrCode) (k : BitVec 4) : (b.record e k).txValid = b.txValid := rfl
@[simp] theorem Block.record_rxbuf (b : Block) (e : ErrCode) (k : BitVec 4) : (b.record e k).rxbuf = b.rxbuf := rfl
@[simp] theorem Block.record_rxCount (b : Block) (e : ErrCode) (k : BitVec 4) : (b.record e k).rxCount = b.rxCount := rfl
@[simp] theorem Block.record_dec (b : Block) (e : ErrCode) (k : BitVec 4) : (b.record e k).dec = b.dec := rfl
@[simp] theorem Block.record_decValid (b : Block) (e : ErrCode) (k : BitVec 4) : (b.record e k).decValid = b.decValid := rfl
@[simp] theorem Block.record_ckValid (b : Block) (e : ErrCode) (k : BitVec 4) : (b.record e k).ckValid = b.ckValid := rfl
@[simp] theorem Block.record_decCkCalc (b : Block) (e : ErrCode) (k : BitVec 4) : (b.record e k).decCkCalc = b.decCkCalc := rfl
@[simp] theorem Block.record_ckResult (b : Block) (e : ErrCode) (k : BitVec 4) : (b.record e k).ckResult = b.ckResult := rfl
@[simp] theorem Block.record_err (b : Block) (e : ErrCode) (k : BitVec 4) : (b.record e k).err = e := rfl
@[simp] theorem Block.record_errIndex (b : Block) (e : ErrCode) (k : BitVec 4) : (b.record e k).errIndex = k := rfl

@[simp] theorem Block.succeed_fieldIn (b : Block) : (b.succeed).fieldIn = b.fieldIn := rfl
@[simp] theorem Block.succeed_tx (b : Block) : (b.succeed).tx = b.tx := rfl
@[simp] theorem Block.succeed_txValid (b : Block) : (b.succeed).txValid = b.txValid := rfl
@[simp] theorem Block.succeed_rxbuf (b : Block) : (b.succeed).rxbuf = b.rxbuf := rfl
@[simp] theorem Block.succeed_rxCount (b : Block) : (b.succeed).rxCount = b.rxCount := rfl
@[simp] theorem Block.succeed_dec (b : Block) : (b.succeed).dec = b.dec := rfl
@[simp] theorem Block.succeed_decValid (b : Block) : (b.succeed).decValid = b.decValid := rfl
@[simp] theorem Block.succeed_ckValid (b : Block) : (b.succeed).ckValid = b.ckValid := rfl
@[simp] theorem Block.succeed_decCkCalc (b : Block) : (b.succeed).decCkCalc = b.decCkCalc := rfl
@[simp] theorem Block.succeed_ckResult (b : Block) : (b.succeed).ckResult = b.ckResult := rfl
@[simp] theorem Block.succeed_err (b : Block) : (b.succeed).err = .none := rfl
@[simp] theorem Block.succeed_errIndex (b : Block) : (b.succeed).errIndex = 0#4 := rfl

@[simp] theorem Block.raiseOutOfRange_fieldIn (b : Block) (i : Fin 9) : (b.raiseOutOfRange i).fieldIn = b.fieldIn := rfl
@[simp] theorem Block.raiseOutOfRange_tx (b : Block) (i : Fin 9) : (b.raiseOutOfRange i).tx = b.tx := rfl
@[simp] theorem Block.raiseOutOfRange_txValid (b : Block) (i : Fin 9) : (b.raiseOutOfRange i).txValid = b.txValid := rfl
@[simp] theorem Block.raiseOutOfRange_rxbuf (b : Block) (i : Fin 9) : (b.raiseOutOfRange i).rxbuf = b.rxbuf := rfl
@[simp] theorem Block.raiseOutOfRange_rxCount (b : Block) (i : Fin 9) : (b.raiseOutOfRange i).rxCount = b.rxCount := rfl
@[simp] theorem Block.raiseOutOfRange_dec (b : Block) (i : Fin 9) : (b.raiseOutOfRange i).dec = b.dec := rfl
@[simp] theorem Block.raiseOutOfRange_decValid (b : Block) (i : Fin 9) : (b.raiseOutOfRange i).decValid = b.decValid := rfl
@[simp] theorem Block.raiseOutOfRange_ckValid (b : Block) (i : Fin 9) : (b.raiseOutOfRange i).ckValid = b.ckValid := rfl
@[simp] theorem Block.raiseOutOfRange_decCkCalc (b : Block) (i : Fin 9) : (b.raiseOutOfRange i).decCkCalc = b.decCkCalc := rfl
@[simp] theorem Block.raiseOutOfRange_ckResult (b : Block) (i : Fin 9) : (b.raiseOutOfRange i).ckResult = b.ckResult := rfl
@[simp] theorem Block.raiseOutOfRange_err (b : Block) (i : Fin 9) : (b.raiseOutOfRange i).err = .outOfRange := rfl
@[simp] theorem Block.raiseOutOfRange_errIndex (b : Block) (i : Fin 9) : (b.raiseOutOfRange i).errIndex = errIndexOf i := rfl

@[simp] theorem Block.raiseShortFrame_fieldIn (b : Block) : (b.raiseShortFrame).fieldIn = b.fieldIn := rfl
@[simp] theorem Block.raiseShortFrame_tx (b : Block) : (b.raiseShortFrame).tx = b.tx := rfl
@[simp] theorem Block.raiseShortFrame_txValid (b : Block) : (b.raiseShortFrame).txValid = b.txValid := rfl
@[simp] theorem Block.raiseShortFrame_rxbuf (b : Block) : (b.raiseShortFrame).rxbuf = b.rxbuf := rfl
@[simp] theorem Block.raiseShortFrame_rxCount (b : Block) : (b.raiseShortFrame).rxCount = b.rxCount := rfl
@[simp] theorem Block.raiseShortFrame_dec (b : Block) : (b.raiseShortFrame).dec = b.dec := rfl
@[simp] theorem Block.raiseShortFrame_decValid (b : Block) : (b.raiseShortFrame).decValid = b.decValid := rfl
@[simp] theorem Block.raiseShortFrame_ckValid (b : Block) : (b.raiseShortFrame).ckValid = b.ckValid := rfl
@[simp] theorem Block.raiseShortFrame_decCkCalc (b : Block) : (b.raiseShortFrame).decCkCalc = b.decCkCalc := rfl
@[simp] theorem Block.raiseShortFrame_ckResult (b : Block) : (b.raiseShortFrame).ckResult = b.ckResult := rfl
@[simp] theorem Block.raiseShortFrame_err (b : Block) : (b.raiseShortFrame).err = .shortFrame := rfl
@[simp] theorem Block.raiseShortFrame_errIndex (b : Block) : (b.raiseShortFrame).errIndex = 0#4 := rfl

@[simp] theorem Block.raiseIllegalCommand_fieldIn (b : Block) : (b.raiseIllegalCommand).fieldIn = b.fieldIn := rfl
@[simp] theorem Block.raiseIllegalCommand_tx (b : Block) : (b.raiseIllegalCommand).tx = b.tx := rfl
@[simp] theorem Block.raiseIllegalCommand_txValid (b : Block) : (b.raiseIllegalCommand).txValid = b.txValid := rfl
@[simp] theorem Block.raiseIllegalCommand_rxbuf (b : Block) : (b.raiseIllegalCommand).rxbuf = b.rxbuf := rfl
@[simp] theorem Block.raiseIllegalCommand_rxCount (b : Block) : (b.raiseIllegalCommand).rxCount = b.rxCount := rfl
@[simp] theorem Block.raiseIllegalCommand_dec (b : Block) : (b.raiseIllegalCommand).dec = b.dec := rfl
@[simp] theorem Block.raiseIllegalCommand_decValid (b : Block) : (b.raiseIllegalCommand).decValid = b.decValid := rfl
@[simp] theorem Block.raiseIllegalCommand_ckValid (b : Block) : (b.raiseIllegalCommand).ckValid = b.ckValid := rfl
@[simp] theorem Block.raiseIllegalCommand_decCkCalc (b : Block) : (b.raiseIllegalCommand).decCkCalc = b.decCkCalc := rfl
@[simp] theorem Block.raiseIllegalCommand_ckResult (b : Block) : (b.raiseIllegalCommand).ckResult = b.ckResult := rfl
@[simp] theorem Block.raiseIllegalCommand_err (b : Block) : (b.raiseIllegalCommand).err = .illegalCommand := rfl
@[simp] theorem Block.raiseIllegalCommand_errIndex (b : Block) : (b.raiseIllegalCommand).errIndex = 0#4 := rfl

@[simp] theorem Block.setField_fieldIn (b : Block) (i : Fin 9) (v : Word) : (b.setField i v).fieldIn = b.fieldIn.set i v := rfl
@[simp] theorem Block.setField_tx (b : Block) (i : Fin 9) (v : Word) : (b.setField i v).tx = b.tx := rfl
@[simp] theorem Block.setField_txValid (b : Block) (i : Fin 9) (v : Word) : (b.setField i v).txValid = b.txValid := rfl
@[simp] theorem Block.setField_rxbuf (b : Block) (i : Fin 9) (v : Word) : (b.setField i v).rxbuf = b.rxbuf := rfl
@[simp] theorem Block.setField_rxCount (b : Block) (i : Fin 9) (v : Word) : (b.setField i v).rxCount = b.rxCount := rfl
@[simp] theorem Block.setField_dec (b : Block) (i : Fin 9) (v : Word) : (b.setField i v).dec = b.dec := rfl
@[simp] theorem Block.setField_decValid (b : Block) (i : Fin 9) (v : Word) : (b.setField i v).decValid = b.decValid := rfl
@[simp] theorem Block.setField_ckValid (b : Block) (i : Fin 9) (v : Word) : (b.setField i v).ckValid = b.ckValid := rfl
@[simp] theorem Block.setField_decCkCalc (b : Block) (i : Fin 9) (v : Word) : (b.setField i v).decCkCalc = b.decCkCalc := rfl
@[simp] theorem Block.setField_ckResult (b : Block) (i : Fin 9) (v : Word) : (b.setField i v).ckResult = b.ckResult := rfl
@[simp] theorem Block.setField_err (b : Block) (i : Fin 9) (v : Word) : (b.setField i v).err = b.err := rfl
@[simp] theorem Block.setField_errIndex (b : Block) (i : Fin 9) (v : Word) : (b.setField i v).errIndex = b.errIndex := rfl

@[simp] theorem Block.loadTx_fieldIn (b : Block) (f : FrameBytes) : (b.loadTx f).fieldIn = b.fieldIn := rfl
@[simp] theorem Block.loadTx_tx (b : Block) (f : FrameBytes) : (b.loadTx f).tx = f := rfl
@[simp] theorem Block.loadTx_txValid (b : Block) (f : FrameBytes) : (b.loadTx f).txValid = true := rfl
@[simp] theorem Block.loadTx_rxbuf (b : Block) (f : FrameBytes) : (b.loadTx f).rxbuf = b.rxbuf := rfl
@[simp] theorem Block.loadTx_rxCount (b : Block) (f : FrameBytes) : (b.loadTx f).rxCount = b.rxCount := rfl
@[simp] theorem Block.loadTx_dec (b : Block) (f : FrameBytes) : (b.loadTx f).dec = b.dec := rfl
@[simp] theorem Block.loadTx_decValid (b : Block) (f : FrameBytes) : (b.loadTx f).decValid = b.decValid := rfl
@[simp] theorem Block.loadTx_ckValid (b : Block) (f : FrameBytes) : (b.loadTx f).ckValid = b.ckValid := rfl
@[simp] theorem Block.loadTx_decCkCalc (b : Block) (f : FrameBytes) : (b.loadTx f).decCkCalc = b.decCkCalc := rfl
@[simp] theorem Block.loadTx_ckResult (b : Block) (f : FrameBytes) : (b.loadTx f).ckResult = b.ckResult := rfl
@[simp] theorem Block.loadTx_err (b : Block) (f : FrameBytes) : (b.loadTx f).err = b.err := rfl
@[simp] theorem Block.loadTx_errIndex (b : Block) (f : FrameBytes) : (b.loadTx f).errIndex = b.errIndex := rfl

@[simp] theorem Block.invalidateTx_fieldIn (b : Block) : (b.invalidateTx).fieldIn = b.fieldIn := rfl
@[simp] theorem Block.invalidateTx_tx (b : Block) : (b.invalidateTx).tx = b.tx := rfl
@[simp] theorem Block.invalidateTx_txValid (b : Block) : (b.invalidateTx).txValid = false := rfl
@[simp] theorem Block.invalidateTx_rxbuf (b : Block) : (b.invalidateTx).rxbuf = b.rxbuf := rfl
@[simp] theorem Block.invalidateTx_rxCount (b : Block) : (b.invalidateTx).rxCount = b.rxCount := rfl
@[simp] theorem Block.invalidateTx_dec (b : Block) : (b.invalidateTx).dec = b.dec := rfl
@[simp] theorem Block.invalidateTx_decValid (b : Block) : (b.invalidateTx).decValid = b.decValid := rfl
@[simp] theorem Block.invalidateTx_ckValid (b : Block) : (b.invalidateTx).ckValid = b.ckValid := rfl
@[simp] theorem Block.invalidateTx_decCkCalc (b : Block) : (b.invalidateTx).decCkCalc = b.decCkCalc := rfl
@[simp] theorem Block.invalidateTx_ckResult (b : Block) : (b.invalidateTx).ckResult = b.ckResult := rfl
@[simp] theorem Block.invalidateTx_err (b : Block) : (b.invalidateTx).err = b.err := rfl
@[simp] theorem Block.invalidateTx_errIndex (b : Block) : (b.invalidateTx).errIndex = b.errIndex := rfl

@[simp] theorem Block.setCkResult_fieldIn (b : Block) (c : Byte) : (b.setCkResult c).fieldIn = b.fieldIn := rfl
@[simp] theorem Block.setCkResult_tx (b : Block) (c : Byte) : (b.setCkResult c).tx = b.tx := rfl
@[simp] theorem Block.setCkResult_txValid (b : Block) (c : Byte) : (b.setCkResult c).txValid = b.txValid := rfl
@[simp] theorem Block.setCkResult_rxbuf (b : Block) (c : Byte) : (b.setCkResult c).rxbuf = b.rxbuf := rfl
@[simp] theorem Block.setCkResult_rxCount (b : Block) (c : Byte) : (b.setCkResult c).rxCount = b.rxCount := rfl
@[simp] theorem Block.setCkResult_dec (b : Block) (c : Byte) : (b.setCkResult c).dec = b.dec := rfl
@[simp] theorem Block.setCkResult_decValid (b : Block) (c : Byte) : (b.setCkResult c).decValid = b.decValid := rfl
@[simp] theorem Block.setCkResult_ckValid (b : Block) (c : Byte) : (b.setCkResult c).ckValid = b.ckValid := rfl
@[simp] theorem Block.setCkResult_decCkCalc (b : Block) (c : Byte) : (b.setCkResult c).decCkCalc = b.decCkCalc := rfl
@[simp] theorem Block.setCkResult_ckResult (b : Block) (c : Byte) : (b.setCkResult c).ckResult = c := rfl
@[simp] theorem Block.setCkResult_err (b : Block) (c : Byte) : (b.setCkResult c).err = b.err := rfl
@[simp] theorem Block.setCkResult_errIndex (b : Block) (c : Byte) : (b.setCkResult c).errIndex = b.errIndex := rfl

@[simp] theorem Block.emptyRx_fieldIn (b : Block) : (b.emptyRx).fieldIn = b.fieldIn := rfl
@[simp] theorem Block.emptyRx_tx (b : Block) : (b.emptyRx).tx = b.tx := rfl
@[simp] theorem Block.emptyRx_txValid (b : Block) : (b.emptyRx).txValid = b.txValid := rfl
@[simp] theorem Block.emptyRx_rxbuf (b : Block) : (b.emptyRx).rxbuf = b.rxbuf := rfl
@[simp] theorem Block.emptyRx_rxCount (b : Block) : (b.emptyRx).rxCount = 0#8 := rfl
@[simp] theorem Block.emptyRx_dec (b : Block) : (b.emptyRx).dec = b.dec := rfl
@[simp] theorem Block.emptyRx_decValid (b : Block) : (b.emptyRx).decValid = b.decValid := rfl
@[simp] theorem Block.emptyRx_ckValid (b : Block) : (b.emptyRx).ckValid = b.ckValid := rfl
@[simp] theorem Block.emptyRx_decCkCalc (b : Block) : (b.emptyRx).decCkCalc = b.decCkCalc := rfl
@[simp] theorem Block.emptyRx_ckResult (b : Block) : (b.emptyRx).ckResult = b.ckResult := rfl
@[simp] theorem Block.emptyRx_err (b : Block) : (b.emptyRx).err = b.err := rfl
@[simp] theorem Block.emptyRx_errIndex (b : Block) : (b.emptyRx).errIndex = b.errIndex := rfl

@[simp] theorem Block.loadDec_fieldIn (b : Block) (f : FrameBytes) : (b.loadDec f).fieldIn = b.fieldIn := rfl
@[simp] theorem Block.loadDec_tx (b : Block) (f : FrameBytes) : (b.loadDec f).tx = b.tx := rfl
@[simp] theorem Block.loadDec_txValid (b : Block) (f : FrameBytes) : (b.loadDec f).txValid = b.txValid := rfl
@[simp] theorem Block.loadDec_rxbuf (b : Block) (f : FrameBytes) : (b.loadDec f).rxbuf = b.rxbuf := rfl
@[simp] theorem Block.loadDec_rxCount (b : Block) (f : FrameBytes) : (b.loadDec f).rxCount = b.rxCount := rfl
@[simp] theorem Block.loadDec_dec (b : Block) (f : FrameBytes) : (b.loadDec f).dec = f := rfl
@[simp] theorem Block.loadDec_decValid (b : Block) (f : FrameBytes) : (b.loadDec f).decValid = true := rfl
@[simp] theorem Block.loadDec_ckValid (b : Block) (f : FrameBytes) : (b.loadDec f).ckValid = validFrame f := rfl
@[simp] theorem Block.loadDec_decCkCalc (b : Block) (f : FrameBytes) : (b.loadDec f).decCkCalc = checksum (ckSpan f) := rfl
@[simp] theorem Block.loadDec_ckResult (b : Block) (f : FrameBytes) : (b.loadDec f).ckResult = b.ckResult := rfl
@[simp] theorem Block.loadDec_err (b : Block) (f : FrameBytes) : (b.loadDec f).err = b.err := rfl
@[simp] theorem Block.loadDec_errIndex (b : Block) (f : FrameBytes) : (b.loadDec f).errIndex = b.errIndex := rfl

@[simp] theorem Block.pushByte_fieldIn (b : Block) (x : Byte) : (b.pushByte x).fieldIn = b.fieldIn := rfl
@[simp] theorem Block.pushByte_tx (b : Block) (x : Byte) : (b.pushByte x).tx = b.tx := rfl
@[simp] theorem Block.pushByte_txValid (b : Block) (x : Byte) : (b.pushByte x).txValid = b.txValid := rfl
@[simp] theorem Block.pushByte_rxbuf (b : Block) (x : Byte) : (b.pushByte x).rxbuf = if b.rxCount.toNat < 10 then b.rxbuf.setIfInBounds b.rxCount.toNat x else b.rxbuf := rfl
@[simp] theorem Block.pushByte_rxCount (b : Block) (x : Byte) : (b.pushByte x).rxCount = nextRxCount b.rxCount := rfl
@[simp] theorem Block.pushByte_dec (b : Block) (x : Byte) : (b.pushByte x).dec = b.dec := rfl
@[simp] theorem Block.pushByte_decValid (b : Block) (x : Byte) : (b.pushByte x).decValid = b.decValid := rfl
@[simp] theorem Block.pushByte_ckValid (b : Block) (x : Byte) : (b.pushByte x).ckValid = b.ckValid := rfl
@[simp] theorem Block.pushByte_decCkCalc (b : Block) (x : Byte) : (b.pushByte x).decCkCalc = b.decCkCalc := rfl
@[simp] theorem Block.pushByte_ckResult (b : Block) (x : Byte) : (b.pushByte x).ckResult = b.ckResult := rfl
@[simp] theorem Block.pushByte_err (b : Block) (x : Byte) : (b.pushByte x).err = b.err := rfl
@[simp] theorem Block.pushByte_errIndex (b : Block) (x : Byte) : (b.pushByte x).errIndex = b.errIndex := rfl

/-! ## The machine -/

@[simp] theorem State.withBlock_block (s : State) (b : Block) : (s.withBlock b).block = b := rfl
@[simp] theorem State.withBlock_resetIn (s : State) (b : Block) : (s.withBlock b).resetIn = s.resetIn := rfl
@[simp] theorem State.withBlock_readData (s : State) (b : Block) : (s.withBlock b).readData = s.readData := rfl
@[simp] theorem State.withBlock_agenda (s : State) (b : Block) : (s.withBlock b).agenda = s.agenda := rfl
@[simp] theorem State.withBlock_host (s : State) (b : Block) : (s.withBlock b).host = s.host := rfl

@[simp] theorem State.answer_block (s : State) (v : Word) : (s.answer v).block = s.block := rfl
@[simp] theorem State.answer_resetIn (s : State) (v : Word) : (s.answer v).resetIn = s.resetIn := rfl
@[simp] theorem State.answer_readData (s : State) (v : Word) : (s.answer v).readData = some v := rfl
@[simp] theorem State.answer_agenda (s : State) (v : Word) : (s.answer v).agenda = s.agenda := rfl
@[simp] theorem State.answer_host (s : State) (v : Word) : (s.answer v).host = s.host := rfl

@[simp] theorem State.withHost_block (s : State) (h : HostEnv) : (s.withHost h).block = s.block := rfl
@[simp] theorem State.withHost_resetIn (s : State) (h : HostEnv) : (s.withHost h).resetIn = s.resetIn := rfl
@[simp] theorem State.withHost_readData (s : State) (h : HostEnv) : (s.withHost h).readData = s.readData := rfl
@[simp] theorem State.withHost_agenda (s : State) (h : HostEnv) : (s.withHost h).agenda = s.agenda := rfl
@[simp] theorem State.withHost_host (s : State) (h : HostEnv) : (s.withHost h).host = h := rfl

@[simp] theorem State.withBlock_self (s : State) : s.withBlock s.block = s := rfl
@[simp] theorem State.withHost_self (s : State) : s.withHost s.host = s := rfl

/-! ## The host -/

@[simp] theorem HostEnv.goto_session (h : HostEnv) (p : HostPhase) : (h.goto p).session = h.session := rfl
@[simp] theorem HostEnv.goto_openPolicy (h : HostEnv) (p : HostPhase) : (h.goto p).openPolicy = h.openPolicy := rfl
@[simp] theorem HostEnv.goto_baud (h : HostEnv) (p : HostPhase) : (h.goto p).baud = h.baud := rfl
@[simp] theorem HostEnv.goto_readTimeout (h : HostEnv) (p : HostPhase) : (h.goto p).readTimeout = h.readTimeout := rfl
@[simp] theorem HostEnv.goto_phase (h : HostEnv) (p : HostPhase) : (h.goto p).phase = p := rfl
@[simp] theorem HostEnv.goto_requests (h : HostEnv) (p : HostPhase) : (h.goto p).requests = h.requests := rfl
@[simp] theorem HostEnv.goto_transport (h : HostEnv) (p : HostPhase) : (h.goto p).transport = h.transport := rfl
@[simp] theorem HostEnv.goto_calls (h : HostEnv) (p : HostPhase) : (h.goto p).calls = h.calls := rfl
@[simp] theorem HostEnv.goto_presented (h : HostEnv) (p : HostPhase) : (h.goto p).presented = h.presented := rfl
@[simp] theorem HostEnv.goto_reports (h : HostEnv) (p : HostPhase) : (h.goto p).reports = h.reports := rfl

@[simp] theorem HostEnv.setXState_session (h : HostEnv) (x : XState) : (h.setXState x).session = { h.session with xstate := x } := rfl
@[simp] theorem HostEnv.setXState_openPolicy (h : HostEnv) (x : XState) : (h.setXState x).openPolicy = h.openPolicy := rfl
@[simp] theorem HostEnv.setXState_baud (h : HostEnv) (x : XState) : (h.setXState x).baud = h.baud := rfl
@[simp] theorem HostEnv.setXState_readTimeout (h : HostEnv) (x : XState) : (h.setXState x).readTimeout = h.readTimeout := rfl
@[simp] theorem HostEnv.setXState_phase (h : HostEnv) (x : XState) : (h.setXState x).phase = h.phase := rfl
@[simp] theorem HostEnv.setXState_requests (h : HostEnv) (x : XState) : (h.setXState x).requests = h.requests := rfl
@[simp] theorem HostEnv.setXState_transport (h : HostEnv) (x : XState) : (h.setXState x).transport = h.transport := rfl
@[simp] theorem HostEnv.setXState_calls (h : HostEnv) (x : XState) : (h.setXState x).calls = h.calls := rfl
@[simp] theorem HostEnv.setXState_presented (h : HostEnv) (x : XState) : (h.setXState x).presented = h.presented := rfl
@[simp] theorem HostEnv.setXState_reports (h : HostEnv) (x : XState) : (h.setXState x).reports = h.reports := rfl

@[simp] theorem HostEnv.setHandle_session (h : HostEnv) (k : Option Nat) : (h.setHandle k).session = { h.session with handle := k } := rfl
@[simp] theorem HostEnv.setHandle_openPolicy (h : HostEnv) (k : Option Nat) : (h.setHandle k).openPolicy = h.openPolicy := rfl
@[simp] theorem HostEnv.setHandle_baud (h : HostEnv) (k : Option Nat) : (h.setHandle k).baud = h.baud := rfl
@[simp] theorem HostEnv.setHandle_readTimeout (h : HostEnv) (k : Option Nat) : (h.setHandle k).readTimeout = h.readTimeout := rfl
@[simp] theorem HostEnv.setHandle_phase (h : HostEnv) (k : Option Nat) : (h.setHandle k).phase = h.phase := rfl
@[simp] theorem HostEnv.setHandle_requests (h : HostEnv) (k : Option Nat) : (h.setHandle k).requests = h.requests := rfl
@[simp] theorem HostEnv.setHandle_transport (h : HostEnv) (k : Option Nat) : (h.setHandle k).transport = h.transport := rfl
@[simp] theorem HostEnv.setHandle_calls (h : HostEnv) (k : Option Nat) : (h.setHandle k).calls = h.calls := rfl
@[simp] theorem HostEnv.setHandle_presented (h : HostEnv) (k : Option Nat) : (h.setHandle k).presented = h.presented := rfl
@[simp] theorem HostEnv.setHandle_reports (h : HostEnv) (k : Option Nat) : (h.setHandle k).reports = h.reports := rfl

@[simp] theorem HostEnv.setResponse_session (h : HostEnv) (r : Frame × Bool) : (h.setResponse r).session = { h.session with lastResponse := some r } := rfl
@[simp] theorem HostEnv.setResponse_openPolicy (h : HostEnv) (r : Frame × Bool) : (h.setResponse r).openPolicy = h.openPolicy := rfl
@[simp] theorem HostEnv.setResponse_baud (h : HostEnv) (r : Frame × Bool) : (h.setResponse r).baud = h.baud := rfl
@[simp] theorem HostEnv.setResponse_readTimeout (h : HostEnv) (r : Frame × Bool) : (h.setResponse r).readTimeout = h.readTimeout := rfl
@[simp] theorem HostEnv.setResponse_phase (h : HostEnv) (r : Frame × Bool) : (h.setResponse r).phase = h.phase := rfl
@[simp] theorem HostEnv.setResponse_requests (h : HostEnv) (r : Frame × Bool) : (h.setResponse r).requests = h.requests := rfl
@[simp] theorem HostEnv.setResponse_transport (h : HostEnv) (r : Frame × Bool) : (h.setResponse r).transport = h.transport := rfl
@[simp] theorem HostEnv.setResponse_calls (h : HostEnv) (r : Frame × Bool) : (h.setResponse r).calls = h.calls := rfl
@[simp] theorem HostEnv.setResponse_presented (h : HostEnv) (r : Frame × Bool) : (h.setResponse r).presented = h.presented := rfl
@[simp] theorem HostEnv.setResponse_reports (h : HostEnv) (r : Frame × Bool) : (h.setResponse r).reports = h.reports := rfl

@[simp] theorem HostEnv.setRequests_session (h : HostEnv) (rs : List HostRequest) : (h.setRequests rs).session = h.session := rfl
@[simp] theorem HostEnv.setRequests_openPolicy (h : HostEnv) (rs : List HostRequest) : (h.setRequests rs).openPolicy = h.openPolicy := rfl
@[simp] theorem HostEnv.setRequests_baud (h : HostEnv) (rs : List HostRequest) : (h.setRequests rs).baud = h.baud := rfl
@[simp] theorem HostEnv.setRequests_readTimeout (h : HostEnv) (rs : List HostRequest) : (h.setRequests rs).readTimeout = h.readTimeout := rfl
@[simp] theorem HostEnv.setRequests_phase (h : HostEnv) (rs : List HostRequest) : (h.setRequests rs).phase = h.phase := rfl
@[simp] theorem HostEnv.setRequests_requests (h : HostEnv) (rs : List HostRequest) : (h.setRequests rs).requests = rs := rfl
@[simp] theorem HostEnv.setRequests_transport (h : HostEnv) (rs : List HostRequest) : (h.setRequests rs).transport = h.transport := rfl
@[simp] theorem HostEnv.setRequests_calls (h : HostEnv) (rs : List HostRequest) : (h.setRequests rs).calls = h.calls := rfl
@[simp] theorem HostEnv.setRequests_presented (h : HostEnv) (rs : List HostRequest) : (h.setRequests rs).presented = h.presented := rfl
@[simp] theorem HostEnv.setRequests_reports (h : HostEnv) (rs : List HostRequest) : (h.setRequests rs).reports = h.reports := rfl

@[simp] theorem HostEnv.tell_session (h : HostEnv) (r : Report) : (h.tell r).session = h.session := rfl
@[simp] theorem HostEnv.tell_openPolicy (h : HostEnv) (r : Report) : (h.tell r).openPolicy = h.openPolicy := rfl
@[simp] theorem HostEnv.tell_baud (h : HostEnv) (r : Report) : (h.tell r).baud = h.baud := rfl
@[simp] theorem HostEnv.tell_readTimeout (h : HostEnv) (r : Report) : (h.tell r).readTimeout = h.readTimeout := rfl
@[simp] theorem HostEnv.tell_phase (h : HostEnv) (r : Report) : (h.tell r).phase = h.phase := rfl
@[simp] theorem HostEnv.tell_requests (h : HostEnv) (r : Report) : (h.tell r).requests = h.requests := rfl
@[simp] theorem HostEnv.tell_transport (h : HostEnv) (r : Report) : (h.tell r).transport = h.transport := rfl
@[simp] theorem HostEnv.tell_calls (h : HostEnv) (r : Report) : (h.tell r).calls = h.calls := rfl
@[simp] theorem HostEnv.tell_presented (h : HostEnv) (r : Report) : (h.tell r).presented = h.presented := rfl
@[simp] theorem HostEnv.tell_reports (h : HostEnv) (r : Report) : (h.tell r).reports = r :: h.reports := rfl

@[simp] theorem HostEnv.call_session (h : HostEnv) (c : TransportCall) (t : Transport) : (h.call c t).session = h.session := rfl
@[simp] theorem HostEnv.call_openPolicy (h : HostEnv) (c : TransportCall) (t : Transport) : (h.call c t).openPolicy = h.openPolicy := rfl
@[simp] theorem HostEnv.call_baud (h : HostEnv) (c : TransportCall) (t : Transport) : (h.call c t).baud = h.baud := rfl
@[simp] theorem HostEnv.call_readTimeout (h : HostEnv) (c : TransportCall) (t : Transport) : (h.call c t).readTimeout = h.readTimeout := rfl
@[simp] theorem HostEnv.call_phase (h : HostEnv) (c : TransportCall) (t : Transport) : (h.call c t).phase = h.phase := rfl
@[simp] theorem HostEnv.call_requests (h : HostEnv) (c : TransportCall) (t : Transport) : (h.call c t).requests = h.requests := rfl
@[simp] theorem HostEnv.call_transport (h : HostEnv) (c : TransportCall) (t : Transport) : (h.call c t).transport = t := rfl
@[simp] theorem HostEnv.call_calls (h : HostEnv) (c : TransportCall) (t : Transport) : (h.call c t).calls = c :: h.calls := rfl
@[simp] theorem HostEnv.call_presented (h : HostEnv) (c : TransportCall) (t : Transport) : (h.call c t).presented = h.presented := rfl
@[simp] theorem HostEnv.call_reports (h : HostEnv) (c : TransportCall) (t : Transport) : (h.call c t).reports = h.reports := rfl

@[simp] theorem HostEnv.endExchange_session (h : HostEnv) (x : XState) (r : Report) : (h.endExchange x r).session = { h.session with xstate := x } := rfl
@[simp] theorem HostEnv.endExchange_openPolicy (h : HostEnv) (x : XState) (r : Report) : (h.endExchange x r).openPolicy = h.openPolicy := rfl
@[simp] theorem HostEnv.endExchange_baud (h : HostEnv) (x : XState) (r : Report) : (h.endExchange x r).baud = h.baud := rfl
@[simp] theorem HostEnv.endExchange_readTimeout (h : HostEnv) (x : XState) (r : Report) : (h.endExchange x r).readTimeout = h.readTimeout := rfl
@[simp] theorem HostEnv.endExchange_phase (h : HostEnv) (x : XState) (r : Report) : (h.endExchange x r).phase = .ready := rfl
@[simp] theorem HostEnv.endExchange_requests (h : HostEnv) (x : XState) (r : Report) : (h.endExchange x r).requests = h.requests := rfl
@[simp] theorem HostEnv.endExchange_transport (h : HostEnv) (x : XState) (r : Report) : (h.endExchange x r).transport = h.transport := rfl
@[simp] theorem HostEnv.endExchange_calls (h : HostEnv) (x : XState) (r : Report) : (h.endExchange x r).calls = h.calls := rfl
@[simp] theorem HostEnv.endExchange_presented (h : HostEnv) (x : XState) (r : Report) : (h.endExchange x r).presented = h.presented := rfl
@[simp] theorem HostEnv.endExchange_reports (h : HostEnv) (x : XState) (r : Report) : (h.endExchange x r).reports = r :: h.reports := rfl

@[simp] theorem HostEnv.present_session (h : HostEnv) (f : FrameBytes) (flag : Option Bool) : (h.present f flag).session = h.session := rfl
@[simp] theorem HostEnv.present_openPolicy (h : HostEnv) (f : FrameBytes) (flag : Option Bool) : (h.present f flag).openPolicy = h.openPolicy := rfl
@[simp] theorem HostEnv.present_baud (h : HostEnv) (f : FrameBytes) (flag : Option Bool) : (h.present f flag).baud = h.baud := rfl
@[simp] theorem HostEnv.present_readTimeout (h : HostEnv) (f : FrameBytes) (flag : Option Bool) : (h.present f flag).readTimeout = h.readTimeout := rfl
@[simp] theorem HostEnv.present_phase (h : HostEnv) (f : FrameBytes) (flag : Option Bool) : (h.present f flag).phase = h.phase := rfl
@[simp] theorem HostEnv.present_requests (h : HostEnv) (f : FrameBytes) (flag : Option Bool) : (h.present f flag).requests = h.requests := rfl
@[simp] theorem HostEnv.present_transport (h : HostEnv) (f : FrameBytes) (flag : Option Bool) : (h.present f flag).transport = h.transport := rfl
@[simp] theorem HostEnv.present_calls (h : HostEnv) (f : FrameBytes) (flag : Option Bool) : (h.present f flag).calls = h.calls := rfl
@[simp] theorem HostEnv.present_reports (h : HostEnv) (f : FrameBytes) (flag : Option Bool) : (h.present f flag).reports = h.reports := rfl
@[simp] theorem HostEnv.present_presented_fields (h : HostEnv) (f : FrameBytes) (flag : Option Bool) :
    (h.present f flag).presented.map PresentedRecord.fields =
      Frame.ofBytes f :: h.presented.map PresentedRecord.fields := rfl

end Sys2Proof.Machine
end

