-- ==== Sys2Proof/Laws/Exec.lean ====
section
/-! SUPPORT. What one instruction can do, said once: the block after it and the value returned, as functions of the
block alone; and one equation per instruction. -/

namespace Sys2Proof.Machine

/-- The block's registers after an instruction. -/
def blockAfter (i : Instr) (b : Block) : Block :=
  match i with
  | .nop => b.succeed
  | .encode =>
    match firstOutOfRange b.fieldIn with
    | some k => b.invalidateTx.raiseOutOfRange k
    | none => (b.loadTx (packFrame (fieldBytes b.fieldIn))).succeed
  | .decode => if b.rxCount.toNat ≠ 10 then b.emptyRx.raiseShortFrame else (b.emptyRx.loadDec b.rxbuf).succeed
  | .checksum =>
    match firstOutOfRange b.fieldIn with
    | some k => b.raiseOutOfRange k
    | none => (b.setCkResult (checksum (fieldBytes b.fieldIn))).succeed
  | .rxClear => b.emptyRx.succeed
  | .cmdIllegal _ _ => b.raiseIllegalCommand
  | .rxPush _ x => b.pushByte x
  | .wrFiStart v => b.setField 0 v
  | .wrFiDev v => b.setField 1 v
  | .wrFiCmd v => b.setField 2 v
  | .wrFiPrm v => b.setField 3 v
  | .wrFiErr v => b.setField 4 v
  | .wrFiD3 v => b.setField 5 v
  | .wrFiD2 v => b.setField 6 v
  | .wrFiD1 v => b.setField 7 v
  | .wrFiD0 v => b.setField 8 v
  | .wrIgnored _ _ => b
  | .rd _ _ => b

/-- The value on the returned-data output after an instruction: a read's, else the earlier one. -/
def dataAfter (i : Instr) (b : Block) (old : Option Word) : Option Word :=
  match i with
  | .rd a _ => some (b.readAddr a)
  | _ => old

/-- Everything an instruction does: it answers next, and changes the block and the returned value only. -/
theorem exec_eq (i : Instr) (s : State) :
    exec i s = .next { s with block := blockAfter i s.block, readData := dataAfter i s.block s.readData } := by
  cases i <;> try rfl
  case encode =>
    simp only [exec, execEncode, blockAfter, dataAfter]
    cases firstOutOfRange s.block.fieldIn <;> rfl
  case checksum =>
    simp only [exec, execChecksum, blockAfter, dataAfter]
    cases firstOutOfRange s.block.fieldIn <;> rfl
  case decode =>
    simp only [exec, execDecode, blockAfter, dataAfter]
    split <;> rfl

/-- The next state of an instruction, from an equation about it. -/
theorem exec_next {i : Instr} {s t : State} (h : exec i s = .next t) :
    t = { s with block := blockAfter i s.block, readData := dataAfter i s.block s.readData } := by
  rw [exec_eq] at h
  exact (Host.Outcome.next.inj h).symm

theorem blockAfter_encode_ok {b : Block} (h : fieldsOk b.fieldIn) :
    blockAfter .encode b = (b.loadTx (packFrame (fieldBytes b.fieldIn))).succeed := by
  simp [blockAfter, firstOutOfRange_none h]

theorem blockAfter_encode_bad {b : Block} {k : Fin 9} (h : firstBadField b.fieldIn k) :
    blockAfter .encode b = b.invalidateTx.raiseOutOfRange k := by
  simp [blockAfter, firstOutOfRange_some h]

theorem blockAfter_checksum_ok {b : Block} (h : fieldsOk b.fieldIn) :
    blockAfter .checksum b = (b.setCkResult (fieldSum b.fieldIn)).succeed := by
  simp [blockAfter, firstOutOfRange_none h, checksum_fieldBytes]

theorem blockAfter_checksum_bad {b : Block} {k : Fin 9} (h : firstBadField b.fieldIn k) :
    blockAfter .checksum b = b.raiseOutOfRange k := by
  simp [blockAfter, firstOutOfRange_some h]

/-- The count is ten as a register value exactly when it is ten as a number. -/
theorem rxCount_ten (b : Block) : b.rxCount = 10#8 ↔ b.rxCount.toNat = 10 :=
  ⟨fun h => by rw [h]; rfl, fun h => BitVec.eq_of_toNat_eq (by rw [h]; rfl)⟩

theorem blockAfter_decode_ok {b : Block} (h : b.rxCount = 10#8) :
    blockAfter .decode b = (b.emptyRx.loadDec b.rxbuf).succeed := by
  simp [blockAfter, (rxCount_ten b).1 h]

theorem blockAfter_decode_bad {b : Block} (h : b.rxCount ≠ 10#8) :
    blockAfter .decode b = b.emptyRx.raiseShortFrame := by
  simp [blockAfter, mt (rxCount_ten b).2 h]

/-- What `ENCODE` can write, whatever its outcome. -/
theorem blockAfter_encode_writes (b : Block) : ∃ (f : FrameBytes) (v : Bool) (e : ErrCode) (k : BitVec 4),
    blockAfter .encode b = { b with tx := f, txValid := v, err := e, errIndex := k } := by
  simp only [blockAfter]
  split
  · exact ⟨_, _, _, _, rfl⟩
  · exact ⟨packFrame (fieldBytes b.fieldIn), true, .none, 0#4, rfl⟩

/-- What `CHECKSUM` can write, whatever its outcome. -/
theorem blockAfter_checksum_writes (b : Block) : ∃ (r : Byte) (e : ErrCode) (k : BitVec 4),
    blockAfter .checksum b = { b with ckResult := r, err := e, errIndex := k } := by
  simp only [blockAfter]
  split
  · exact ⟨_, _, _, rfl⟩
  · exact ⟨checksum (fieldBytes b.fieldIn), .none, 0#4, rfl⟩

/-- The nine field writes are one operation. -/
theorem blockAfter_fieldWrite (i : Fin 9) (v : Word) (b : Block) :
    blockAfter (fieldWrite i v) b = b.setField i v := by
  fin_cases i <;> rfl

theorem dataAfter_fieldWrite (i : Fin 9) (v : Word) (b : Block) (old : Option Word) :
    dataAfter (fieldWrite i v) b old = old := by
  fin_cases i <;> rfl

/-- An instruction is a field write exactly when it is one of the nine. -/
theorem isFieldWrite_cases (i : Instr) : (∃ k v, i = fieldWrite k v) ↔
    (∃ v, i = .wrFiStart v) ∨ (∃ v, i = .wrFiDev v) ∨ (∃ v, i = .wrFiCmd v) ∨ (∃ v, i = .wrFiPrm v) ∨
    (∃ v, i = .wrFiErr v) ∨ (∃ v, i = .wrFiD3 v) ∨ (∃ v, i = .wrFiD2 v) ∨ (∃ v, i = .wrFiD1 v) ∨
    ∃ v, i = .wrFiD0 v := by
  constructor
  · rintro ⟨k, v, rfl⟩
    fin_cases k <;> simp [fieldWrite]
  · rintro (⟨v, rfl⟩ | ⟨v, rfl⟩ | ⟨v, rfl⟩ | ⟨v, rfl⟩ | ⟨v, rfl⟩ | ⟨v, rfl⟩ | ⟨v, rfl⟩ | ⟨v, rfl⟩ | ⟨v, rfl⟩)
    exacts [⟨0, v, rfl⟩, ⟨1, v, rfl⟩, ⟨2, v, rfl⟩, ⟨3, v, rfl⟩, ⟨4, v, rfl⟩, ⟨5, v, rfl⟩, ⟨6, v, rfl⟩, ⟨7, v, rfl⟩,
      ⟨8, v, rfl⟩]

/-- A push stores the byte while fewer than ten have arrived. -/
theorem pushByte_rxbuf {b : Block} (x : Byte) (h : b.rxCount.toNat < 10) :
    (b.pushByte x).rxbuf = b.rxbuf.set b.rxCount.toNat x := by
  rw [Block.pushByte_rxbuf, if_pos h]
  ext i hi
  rw [Vector.getElem_setIfInBounds hi, Vector.getElem_set]

/-- A push counts the byte below 255. -/
theorem nextRxCount_toNat (n : Byte) : (nextRxCount n).toNat = if n.toNat < 255 then n.toNat + 1 else 255 := by
  have := n.isLt
  unfold nextRxCount
  split
  · simp only [BitVec.toNat_add, BitVec.toNat_ofNat]; omega
  · omega

end Sys2Proof.Machine
end

