-- ==== Sys2Proof/Laws/Bus.lean ====
section
/-! SUPPORT. What one transaction and one host step can do, said once. -/

namespace Sys2Proof.Machine

@[simp] theorem andThen_next (s : State) (k : State → Result) : andThen (.next s) k = k s := rfl

/-- The state after a transaction. -/
def txnNext (t : TxnWord) (s : State) : State :=
  if s.resetIn then s.underReset (decode t)
  else { s with block := blockAfter (decode t) s.block, readData := dataAfter (decode t) s.block s.readData }

/-- A transaction answers next. -/
theorem busTransaction_eq (t : TxnWord) (s : State) : busTransaction t s = .next (txnNext t s) := by
  unfold busTransaction txnNext
  split
  · rfl
  · exact exec_eq _ _

@[simp] theorem underReset_block (s : State) (i : Instr) : (s.underReset i).block = s.block := by cases i <;> rfl
@[simp] theorem underReset_resetIn (s : State) (i : Instr) : (s.underReset i).resetIn = s.resetIn := by
  cases i <;> rfl
@[simp] theorem underReset_agenda (s : State) (i : Instr) : (s.underReset i).agenda = s.agenda := by cases i <;> rfl
@[simp] theorem underReset_host (s : State) (i : Instr) : (s.underReset i).host = s.host := by cases i <;> rfl

/-- A transaction changes the block and the returned value only. -/
@[simp] theorem txnNext_resetIn (t : TxnWord) (s : State) : (txnNext t s).resetIn = s.resetIn := by
  unfold txnNext; split <;> simp
@[simp] theorem txnNext_agenda (t : TxnWord) (s : State) : (txnNext t s).agenda = s.agenda := by
  unfold txnNext; split <;> simp
@[simp] theorem txnNext_host (t : TxnWord) (s : State) : (txnNext t s).host = s.host := by
  unfold txnNext; split <;> simp

/-- The block after a transaction: as before under reset, else what the instruction makes of it. -/
theorem txnNext_block (t : TxnWord) (s : State) :
    (txnNext t s).block = if s.resetIn then s.block else blockAfter (decode t) s.block := by
  unfold txnNext; split <;> simp [*]

/-- A transaction with reset released is the decoded instruction. -/
theorem txnNext_released {t : TxnWord} {s : State} (h : s.resetIn = false) :
    txnNext t s =
      { s with block := blockAfter (decode t) s.block, readData := dataAfter (decode t) s.block s.readData } := by
  simp [txnNext, h]

/-- A host transaction: the transaction, then the host's own change. -/
theorem hostIssue_eq (t : TxnWord) (k : HostEnv → Word → HostEnv) (s : State) :
    hostIssue t k s = .next ((txnNext t s).withHost (k s.host ((txnNext t s).readData.getD 0#16))) := by
  simp [hostIssue, busTransaction_eq]

/-- A host step is one transaction with a change of the host, or a change of the host alone. -/
theorem hostStep_cases (s : State) :
    (∃ h : HostEnv, hostStep s = .next (s.withHost h)) ∨
    ∃ (t : TxnWord) (h : HostEnv), hostStep s = .next ((txnNext t s).withHost h) := by
  unfold hostStep
  split
  · split
    · exact .inl ⟨s.host, rfl⟩
    · exact .inl ⟨_, rfl⟩
  all_goals first
    | exact .inl ⟨_, rfl⟩
    | exact .inr ⟨_, _, hostIssue_eq _ _ _⟩

/-- A platform access is a transaction, or nothing. -/
theorem busAccess_cases (w : Bool) (p : Nat) (d : Word) (s : State) :
    busAccess w p d s = .next s ∨ ∃ t, busAccess w p d s = .next (txnNext t s) := by
  unfold busAccess
  split
  · exact .inr ⟨_, busTransaction_eq _ _⟩
  · exact .inl rfl

/-- Transactions in sequence. -/
theorem busSequence_cons (t : TxnWord) (ts : List TxnWord) (s : State) :
    busSequence (t :: ts) s = busSequence ts (txnNext t s) := by
  simp [busSequence, busTransaction_eq]

@[simp] theorem busSequence_nil (s : State) : busSequence [] s = .next s := rfl

/-- Two sequences, one after the other. -/
theorem busSequence_append (ts us : List TxnWord) (s : State) :
    busSequence (ts ++ us) s = andThen (busSequence ts s) (busSequence us) := by
  induction ts generalizing s with
  | nil => rfl
  | cons t ts ih => rw [List.cons_append, busSequence_cons, busSequence_cons, ih]

/-! ## Pushing a list of bytes -/

/-- Pushing bytes one by one, with reset released, is the fold of `pushByte`. -/
theorem busSequence_pushes (bs : List Byte) {s : State} (h : s.resetIn = false) :
    busSequence (bs.map fun b => (0x103#9 ++ 0x00#8 ++ b : TxnWord)) s =
      .next (s.withBlock (bs.foldl Block.pushByte s.block)) := by
  induction bs generalizing s with
  | nil => rfl
  | cons b bs ih =>
    rw [List.map_cons, busSequence_cons, txnNext_released h, decode_pushWord]
    exact ih h

/-- The count after pushing a list of bytes: saturating at 255 (R26). -/
theorem foldl_pushByte_rxCount (bs : List Byte) (b : Block) :
    (bs.foldl Block.pushByte b).rxCount.toNat = min 255 (b.rxCount.toNat + bs.length) := by
  induction bs generalizing b with
  | nil => have := b.rxCount.isLt; simp; omega
  | cons x bs ih =>
    simp only [List.foldl_cons, ih, Block.pushByte_rxCount, nextRxCount_toNat, List.length_cons]
    have := b.rxCount.isLt
    split <;> omega

/-- Pushing writes the buffer and the count only. -/
theorem foldl_pushByte_frame (bs : List Byte) (b : Block) :
    bs.foldl Block.pushByte b =
      { b with
        rxbuf := (bs.foldl Block.pushByte b).rxbuf
        rxCount := (bs.foldl Block.pushByte b).rxCount } := by
  induction bs generalizing b with
  | nil => rfl
  | cons x bs ih => exact ih _

/-- While the buffer does not overrun, the pushed bytes stand in arrival order (R25). -/
theorem foldl_pushByte_rxbuf (bs : List Byte) (b : Block) (fit : b.rxCount.toNat + bs.length ≤ 10) (i : Nat)
    (hi : i < 10) :
    (bs.foldl Block.pushByte b).rxbuf[i] =
      if h : b.rxCount.toNat ≤ i ∧ i < b.rxCount.toNat + bs.length then bs[i - b.rxCount.toNat] else b.rxbuf[i] := by
  induction bs generalizing b with
  | nil => rw [dif_neg (by simp)]; rfl
  | cons x bs ih =>
    simp only [List.length_cons] at fit
    have count : (b.pushByte x).rxCount.toNat = b.rxCount.toNat + 1 := by
      rw [Block.pushByte_rxCount, nextRxCount_toNat, if_pos (by omega)]
    simp only [List.foldl_cons]
    rw [ih _ (by omega)]
    simp only [count, List.length_cons]
    rw [pushByte_rxbuf x (by omega)]
    by_cases here : b.rxCount.toNat = i
    · subst here
      rw [dif_neg (by omega), dif_pos (by omega)]
      simp
    · rw [Vector.getElem_set_ne _ _ here]
      by_cases later : b.rxCount.toNat + 1 ≤ i ∧ i < b.rxCount.toNat + 1 + bs.length
      · rw [dif_pos later, dif_pos (by omega), List.getElem_cons, dif_neg (by omega)]
        rfl
      · rw [dif_neg later, dif_neg (by omega)]

/-- Ten bytes pushed into an empty buffer are the buffer. -/
theorem foldl_pushByte_ten {bs : List Byte} {b : Block} (empty : b.rxCount.toNat = 0) (ten : bs.length = 10) :
    (bs.foldl Block.pushByte b).rxbuf.toList = bs := by
  apply List.ext_getElem (by simp [ten])
  intro i h1 h2
  have := foldl_pushByte_rxbuf bs b (by omega) i (by omega)
  rw [dif_pos (by omega)] at this
  simpa [empty] using this

end Sys2Proof.Machine
end

