-- ==== Sys2Proof/Laws/Flags.lean ====
section
/-! SUPPORT. The fields of the `STATUS` word (spec/10_state.md R27), one lemma each. -/

namespace Sys2Proof.Machine

theorem Block.status_errField (b : Block) : b.status.extractLsb' 0 3 = b.err.code := by
  apply BitVec.eq_of_getLsbD_eq
  intro i hi
  simp only [Block.status, BitVec.getLsbD_extractLsb', BitVec.getLsbD_append]
  rw [if_pos (by omega)]
  simp [hi]

theorem Block.status_txValid (b : Block) : b.status.getLsbD 3 = b.txValid := by
  simp only [Block.status, BitVec.getLsbD_append]; simp

theorem Block.status_decValid (b : Block) : b.status.getLsbD 4 = b.decValid := by
  simp only [Block.status, BitVec.getLsbD_append]; simp

theorem Block.status_ckValid (b : Block) : b.status.getLsbD 5 = b.ckValid := by
  simp only [Block.status, BitVec.getLsbD_append]; simp

theorem Block.status_rxExact (b : Block) : b.status.getLsbD 6 = b.rxExact := by
  simp only [Block.status, BitVec.getLsbD_append]; simp

theorem Block.status_rxOver (b : Block) : b.status.getLsbD 7 = b.rxOver := by
  simp only [Block.status, BitVec.getLsbD_append]; simp

theorem Block.status_errIndex (b : Block) : b.status.extractLsb' 8 4 = b.errIndex := by
  apply BitVec.eq_of_getLsbD_eq
  intro i hi
  simp only [Block.status, BitVec.getLsbD_extractLsb', BitVec.getLsbD_append]
  rw [if_neg (by omega), if_neg (by omega), if_neg (by omega), if_neg (by omega), if_neg (by omega), if_neg (by omega),
    if_pos (by omega)]
  simp only [hi, decide_true, Bool.true_and]
  congr 1
  omega

theorem Block.status_reserved (b : Block) : b.status.extractLsb' 12 4 = 0#4 := by
  apply BitVec.eq_of_getLsbD_eq
  intro i hi
  simp only [Block.status, BitVec.getLsbD_extractLsb', BitVec.getLsbD_append]
  rw [if_neg (by omega), if_neg (by omega), if_neg (by omega), if_neg (by omega), if_neg (by omega), if_neg (by omega),
    if_neg (by omega)]
  simp

end Sys2Proof.Machine
end

