-- ==== Sys2Proof/Laws/PerInstr.lean ====
section
/-! SUPPORT. Per-instruction laws: the family `RowMatch`, that an instruction's encoding lies in its row of
spec/opcode_table.json. -/

namespace Sys2Proof.Laws

/-- The encoding of an instruction matches the mask and pattern of the instruction's row. -/
def RowMatch.Statement (i : Instr) : Prop := i.row.matchesWord (encode i) = true

theorem RowMatch.nop : RowMatch.Statement .nop :=
  (commandRow_matches _ _ _).2 rfl

theorem RowMatch.encode : RowMatch.Statement .encode :=
  (commandRow_matches _ _ _).2 rfl

theorem RowMatch.decode : RowMatch.Statement .decode :=
  (commandRow_matches _ _ _).2 rfl

theorem RowMatch.checksum : RowMatch.Statement .checksum :=
  (commandRow_matches _ _ _).2 rfl

theorem RowMatch.rxClear : RowMatch.Statement .rxClear :=
  (commandRow_matches _ _ _).2 rfl

theorem RowMatch.cmdIllegal (r o : Byte) : RowMatch.Statement (.cmdIllegal r o) :=
  (addressRow_matches _ 0x00#8 _ _).2 ⟨makeTxn_isWrite _ _ _, makeTxn_addr _ _ _⟩

theorem RowMatch.rxPush (g b : Byte) : RowMatch.Statement (.rxPush g b) :=
  (addressRow_matches _ 0x03#8 _ _).2 ⟨makeTxn_isWrite _ _ _, makeTxn_addr _ _ _⟩

theorem RowMatch.wrFiStart (v : Word) : RowMatch.Statement (.wrFiStart v) :=
  (addressRow_matches _ 0x10#8 _ _).2 ⟨makeTxn_isWrite _ _ _, makeTxn_addr _ _ _⟩

theorem RowMatch.wrFiDev (v : Word) : RowMatch.Statement (.wrFiDev v) :=
  (addressRow_matches _ 0x11#8 _ _).2 ⟨makeTxn_isWrite _ _ _, makeTxn_addr _ _ _⟩

theorem RowMatch.wrFiCmd (v : Word) : RowMatch.Statement (.wrFiCmd v) :=
  (addressRow_matches _ 0x12#8 _ _).2 ⟨makeTxn_isWrite _ _ _, makeTxn_addr _ _ _⟩

theorem RowMatch.wrFiPrm (v : Word) : RowMatch.Statement (.wrFiPrm v) :=
  (addressRow_matches _ 0x13#8 _ _).2 ⟨makeTxn_isWrite _ _ _, makeTxn_addr _ _ _⟩

theorem RowMatch.wrFiErr (v : Word) : RowMatch.Statement (.wrFiErr v) :=
  (addressRow_matches _ 0x14#8 _ _).2 ⟨makeTxn_isWrite _ _ _, makeTxn_addr _ _ _⟩

theorem RowMatch.wrFiD3 (v : Word) : RowMatch.Statement (.wrFiD3 v) :=
  (addressRow_matches _ 0x15#8 _ _).2 ⟨makeTxn_isWrite _ _ _, makeTxn_addr _ _ _⟩

theorem RowMatch.wrFiD2 (v : Word) : RowMatch.Statement (.wrFiD2 v) :=
  (addressRow_matches _ 0x16#8 _ _).2 ⟨makeTxn_isWrite _ _ _, makeTxn_addr _ _ _⟩

theorem RowMatch.wrFiD1 (v : Word) : RowMatch.Statement (.wrFiD1 v) :=
  (addressRow_matches _ 0x17#8 _ _).2 ⟨makeTxn_isWrite _ _ _, makeTxn_addr _ _ _⟩

theorem RowMatch.wrFiD0 (v : Word) : RowMatch.Statement (.wrFiD0 v) :=
  (addressRow_matches _ 0x18#8 _ _).2 ⟨makeTxn_isWrite _ _ _, makeTxn_addr _ _ _⟩

theorem RowMatch.wrIgnored (a : Addr) (d : Word) : RowMatch.Statement (.wrIgnored a d) :=
  (directionRow_matches _ true _ _).2 (makeTxn_isWrite _ _ _)

theorem RowMatch.rd (a : Addr) (g : Word) : RowMatch.Statement (.rd a g) :=
  (directionRow_matches _ false _ _).2 (makeTxn_isWrite _ _ _)

end Sys2Proof.Laws
end

