-- ==== Sys2Proof/Laws/Run.lean ====
section
/-! SUPPORT. Runs of the exchange controller with no other event waiting and reset released: steps in sequence, one
lemma per phase of the send sequence, and the loops over fields, frame bytes and received bytes. -/

namespace Sys2Proof.Machine

/-- No other event is waiting and reset is released: the exchange has the bus to itself (R196). -/
def State.quiet (s : State) : Prop := s.agenda = [] ∧ s.resetIn = false

theorem step_quiet {s : State} (h : s.quiet) : step s = hostStep s := by
  simp [step, h.1]

theorem run_zero (s : State) : runSteps 0 s = .next s := rfl

theorem run_succ {n : Nat} {s t : State} (h : step s = .next t) : runSteps (n + 1) s = runSteps n t := by
  simp [runSteps, h]

/-- Runs compose. -/
theorem run_add {m n : Nat} {s t : State} (h : runSteps m s = .next t) : runSteps (m + n) s = runSteps n t := by
  induction m generalizing s with
  | zero => cases h; simp
  | succ m ih =>
    rw [runSteps] at h
    rw [Nat.add_right_comm, runSteps]
    cases hs : step s with
    | next u => rw [hs] at h; exact ih h
    | fault f => rw [hs] at h; cases h
    | refused f => rw [hs] at h; cases h

/-- The runs of the host's interface are these runs. -/
theorem core_run_eq (n : Nat) (s : State) : Host.Core.run core n s = runSteps n s := by
  induction n generalizing s with
  | zero => rfl
  | succ n ih =>
    have : core.step s = step s := rfl
    simp only [Host.Core.run, runSteps, this]
    cases step s with
    | next u => exact ih u
    | fault f => rfl
    | refused f => rfl

/-- A host step that issues a write: the block takes it, the host goes on. -/
theorem step_hostWrite {s : State} {t : TxnWord} {i : Instr} {k : HostEnv → HostEnv} (q : s.quiet)
    (issue : hostStep s = hostIssue t (fun h _ => k h) s) (dec : decode t = i) (write : ∀ a d, i ≠ .rd a d) :
    step s = .next { s with block := blockAfter i s.block, host := k s.host } := by
  rw [step_quiet q, issue, hostIssue_eq, txnNext_released q.2, dec]
  cases i <;> first | rfl | exact absurd rfl (write _ _)

/-- A host step that issues a read of register `r`: the block stays, the host goes on with the value. -/
theorem step_hostRead {s : State} {a : Addr} {k : HostEnv → Word → HostEnv} (q : s.quiet)
    (issue : hostStep s = hostIssue (memRead a) k s) :
    step s = .next { s with readData := some (s.block.readAddr a), host := k s.host (s.block.readAddr a) } := by
  rw [step_quiet q, issue, hostIssue_eq, txnNext_released q.2]
  simp only [memRead, decode_makeTxn]
  rfl

theorem decode_memWrite_field (i : Fin 9) (v : Word) :
    decode (memWrite (Reg.fieldIn i).addr v) = fieldWrite i v := by
  rw [memWrite, decode_makeTxn]
  fin_cases i <;> rfl

theorem decode_memWrite_push (b : Byte) : decode (memWrite Reg.rxData.addr (zext16 b)) = .rxPush 0#8 b := by
  rw [memWrite, decode_makeTxn]
  simp [decodeWrite, Reg.addr]

theorem fieldWrite_ne_rd (i : Fin 9) (v : Word) (a : Addr) (d : Word) : fieldWrite i v ≠ .rd a d := by
  fin_cases i <;> simp [fieldWrite]

theorem readAddr_status (b : Block) : b.readAddr Reg.status.addr = b.status := rfl

theorem readAddr_tx (b : Block) (j : Fin 10) : b.readAddr (Reg.tx j).addr = zext16 b.tx[j] := by
  fin_cases j <;> rfl

theorem readAddr_dec (b : Block) (j : Fin 10) : b.readAddr (Reg.dec j).addr = zext16 b.dec[j] := by
  fin_cases j <;> rfl

/-! ## The loops -/

/-- `LOAD`: from field `i` on, the remaining fields are written and the host stands before `ENCODE`. -/
theorem run_loading (f : FieldValues) (n : Nat) : ∀ (i : Fin 9) (s : State), i.val + n = 9 → s.quiet →
    s.host.phase = .loading f i →
    runSteps n s = .next { s with
      block := { s.block with
        fieldIn := Vector.ofFn fun j => if j.val < i.val then s.block.fieldIn[j.val] else f[j.val] }
      host := s.host.goto .encoding } := by
  induction n with
  | zero => intro i s hi; omega
  | succ n ih =>
    intro i s hi q hp
    have one := step_hostWrite q (t := memWrite (Reg.fieldIn i).addr f[i]) (i := fieldWrite i f[i])
      (k := fun h => h.afterLoad f i) (by simp only [hostStep, hp]) (decode_memWrite_field _ _)
      (fieldWrite_ne_rd _ _)
    rw [run_succ one, blockAfter_fieldWrite]
    by_cases last : i.val + 1 < 9
    · rw [ih ⟨i.val + 1, last⟩ { s with block := s.block.setField i f[i], host := s.host.afterLoad f i }
        (by simp; omega) q (by simp [HostEnv.afterLoad, last])]
      simp only [HostEnv.afterLoad, last, dite_true, HostEnv.goto]
      congr 3
      ext j hj
      simp only [Vector.getElem_ofFn, Block.setField_fieldIn, Fin.getElem_fin, Vector.getElem_set]
      by_cases here : i.val = j
      · subst here; simp
      · by_cases below : j < i.val
        · simp [here, below, show j < i.val + 1 by omega]
        · simp [below, show ¬ j < i.val + 1 by omega]
    · have hn : n = 0 := by omega
      subst hn
      rw [run_zero]
      simp only [HostEnv.afterLoad, last, dite_false]
      congr 3
      simp only [Block.setField]
      congr 1
      ext j hj
      simp only [Vector.getElem_ofFn, Fin.getElem_fin, Vector.getElem_set]
      by_cases here : i.val = j
      · subst here; simp
      · simp [here, show j < i.val by omega]

/-- `RDTX`: from byte `j` on, the remaining bytes are read, the outbound record is presented, and the host stands
before `RXCLR` with the bytes. -/
theorem run_readingTx (n : Nat) : ∀ (j : Fin 10) (got : FrameBytes) (s : State), j.val + n = 10 → s.quiet →
    s.host.phase = .readingTx j got → (∀ i : Fin 10, i.val < j.val → got[i.val] = s.block.tx[i.val]) →
    ∃ d, runSteps n s = .next { s with
      readData := d, host := (s.host.present s.block.tx none).goto (.clearing s.block.tx) } := by
  induction n with
  | zero => intro j got s hj; omega
  | succ n ih =>
    intro j got s hj q hp done
    have one := step_hostRead q (a := (Reg.tx j).addr) (k := fun h v => h.afterTxRead j got v)
      (by simp only [hostStep, hp])
    rw [run_succ one]
    have next : ∀ i : Fin 10, i.val < j.val + 1 →
        (got.set j (lowByte (s.block.readAddr (Reg.tx j).addr)))[i.val] = s.block.tx[i.val] := by
      intro i hi
      rw [readAddr_tx, lowByte_zext16, Vector.getElem_set]
      by_cases here : j.val = i.val
      · simp [here]
      · simp only [here, if_false]; exact done i (by omega)
    by_cases last : j.val + 1 < 10
    · obtain ⟨d, hd⟩ := ih ⟨j.val + 1, last⟩ _ { s with
        readData := some (s.block.readAddr (Reg.tx j).addr),
        host := s.host.afterTxRead j got (s.block.readAddr (Reg.tx j).addr) } (by simp; omega) q
        (by simp only [HostEnv.afterTxRead, last, dite_true, HostEnv.goto_phase]) next
      refine ⟨d, hd.trans ?_⟩
      simp only [HostEnv.afterTxRead, last, dite_true]
      rfl
    · have hn : n = 0 := by omega
      subst hn
      have whole : got.set j (lowByte (s.block.readAddr (Reg.tx j).addr)) = s.block.tx := by
        apply Vector.ext
        intro i hi
        exact next ⟨i, hi⟩ (by show i < j.val + 1; omega)
      refine ⟨some (s.block.readAddr (Reg.tx j).addr), ?_⟩
      rw [run_zero]
      simp only [HostEnv.afterTxRead, last, dite_false, whole]

/-- `RDDEC`: from byte `j` on, the remaining bytes are read, and the host stands before the last `RD STATUS`. -/
theorem run_readingDec (n : Nat) : ∀ (j : Fin 10) (got : FrameBytes) (s : State), j.val + n = 10 → s.quiet →
    s.host.phase = .readingDec j got → (∀ i : Fin 10, i.val < j.val → got[i.val] = s.block.dec[i.val]) →
    ∃ d, runSteps n s = .next { s with
      readData := d, host := s.host.goto (.readingFlag s.block.dec) } := by
  induction n with
  | zero => intro j got s hj; omega
  | succ n ih =>
    intro j got s hj q hp done
    have one := step_hostRead q (a := (Reg.dec j).addr) (k := fun h v => h.afterDecRead j got v)
      (by simp only [hostStep, hp])
    rw [run_succ one]
    have next : ∀ i : Fin 10, i.val < j.val + 1 →
        (got.set j (lowByte (s.block.readAddr (Reg.dec j).addr)))[i.val] = s.block.dec[i.val] := by
      intro i hi
      rw [readAddr_dec, lowByte_zext16, Vector.getElem_set]
      by_cases here : j.val = i.val
      · simp [here]
      · simp only [here, if_false]; exact done i (by omega)
    by_cases last : j.val + 1 < 10
    · obtain ⟨d, hd⟩ := ih ⟨j.val + 1, last⟩ _ { s with
        readData := some (s.block.readAddr (Reg.dec j).addr),
        host := s.host.afterDecRead j got (s.block.readAddr (Reg.dec j).addr) } (by simp; omega) q
        (by simp only [HostEnv.afterDecRead, last, dite_true, HostEnv.goto_phase]) next
      refine ⟨d, hd.trans ?_⟩
      simp only [HostEnv.afterDecRead, last, dite_true]
      rfl
    · have hn : n = 0 := by omega
      subst hn
      have whole : got.set j (lowByte (s.block.readAddr (Reg.dec j).addr)) = s.block.dec := by
        apply Vector.ext
        intro i hi
        exact next ⟨i, hi⟩ (by show i < j.val + 1; omega)
      refine ⟨some (s.block.readAddr (Reg.dec j).addr), ?_⟩
      rw [run_zero]
      simp only [HostEnv.afterDecRead, last, dite_false, whole]

/-- The received bytes are pushed one by one. -/
theorem run_pushing (len : Nat) : ∀ (bs : List Byte) (s : State), s.quiet → s.host.phase = .pushing bs len →
    runSteps bs.length s = .next { s with
      block := bs.foldl Block.pushByte s.block, host := s.host.goto (.pushing [] len) } := by
  intro bs
  induction bs with
  | nil =>
    intro s q hp
    have : s.host.goto (.pushing [] len) = s.host := by simp only [HostEnv.goto, ← hp]
    simp only [List.length_nil, List.foldl_nil, this]
    rfl
  | cons b bs ih =>
    intro s q hp
    have one := step_hostWrite q (t := memWrite Reg.rxData.addr (zext16 b)) (i := .rxPush 0#8 b)
      (k := fun h => h.goto (.pushing bs len)) (by simp only [hostStep, hp]) (decode_memWrite_push _) (by simp)
    rw [List.length_cons, run_succ one]
    exact ih { s with block := s.block.pushByte b, host := s.host.goto (.pushing bs len) } q rfl

/-! ## The send sequence, piece by piece -/

/-- From the request to the `STATUS` test: start, nine field writes, `ENCODE`. -/
theorem run_toChecking {s : State} {f : FieldValues} {rest : List HostRequest} {k : Nat} (q : s.quiet)
    (hp : s.host.phase = .ready) (hr : s.host.requests = .send f :: rest) (hk : s.host.session.handle = some k) :
    runSteps 11 s = .next { s with
      block := blockAfter .encode { s.block with fieldIn := f }
      host := (s.host.setRequests rest).goto .checking } := by
  have start : step s = .next (s.withHost ((s.host.setRequests rest).goto (.loading f 0))) := by
    rw [step_quiet q]
    simp [hostStep, hp, hr, HostEnv.startRequest, HostEnv.sendRequest, hk]
  have fields : (Vector.ofFn fun j : Fin 9 => f[j.val]) = f := by ext i hi; simp
  have load := run_loading f 9 0 (s.withHost ((s.host.setRequests rest).goto (.loading f 0))) rfl q rfl
  simp only [Fin.val_zero, Nat.not_lt_zero, if_false, fields] at load
  have encode := step_hostWrite (i := .encode) (t := memWrite Reg.cmd.addr 0x0001#16)
    (k := fun h => h.goto .checking)
    (s := { s with block := { s.block with fieldIn := f }, host := (s.host.setRequests rest).goto .encoding })
    q rfl rfl (by simp)
  rw [run_succ start, show (10 : Nat) = 9 + 1 from rfl, run_add load]
  exact (run_succ encode).trans rfl

/-- The `STATUS` test after a failed `ENCODE` ends the exchange. -/
theorem step_checking_failed {s : State} (q : s.quiet) (hp : s.host.phase = .checking)
    (err : s.block.err = .outOfRange) :
    step s = .next { s with readData := some s.block.status, host := s.host.endExchange .idle .outOfRange } := by
  rw [step_hostRead q (a := Reg.status.addr) (k := fun h st => h.afterStatus st) (by simp only [hostStep, hp]),
    readAddr_status, HostEnv.afterStatus, Block.status_errField, err]
  rfl

/-- The `STATUS` test after a good `ENCODE` starts the sending. -/
theorem step_checking_ok {s : State} (q : s.quiet) (hp : s.host.phase = .checking) (err : s.block.err = .none) :
    step s = .next { s with
      readData := some s.block.status
      host := (s.host.setXState .sending).goto (.readingTx 0 (Vector.replicate 10 0#8)) } := by
  rw [step_hostRead q (a := Reg.status.addr) (k := fun h st => h.afterStatus st) (by simp only [hostStep, hp]),
    readAddr_status, HostEnv.afterStatus, Block.status_errField, err]
  rfl

/-- From the request to the transport's `write`, with the fields in range: the frame is encoded, read back and
presented, and the receive buffer is empty. -/
theorem run_toWriting {s : State} {f : FieldValues} {rest : List HostRequest} {k : Nat} (q : s.quiet)
    (hp : s.host.phase = .ready) (hr : s.host.requests = .send f :: rest) (hk : s.host.session.handle = some k)
    (ok : fieldsOk f) :
    ∃ d, runSteps 23 s = .next { s with
      block := ((({ s.block with fieldIn := f } : Block).loadTx (packFrame (fieldBytes f))).succeed.emptyRx).succeed
      readData := d
      host := (((s.host.setRequests rest).setXState .sending).present (packFrame (fieldBytes f)) none).goto
        (.writing (packFrame (fieldBytes f))) } := by
  have a := run_toChecking q hp hr hk
  rw [blockAfter_encode_ok (b := { s.block with fieldIn := f }) ok] at a
  have b := step_checking_ok (s := { s with
    block := (({ s.block with fieldIn := f } : Block).loadTx (packFrame (fieldBytes f))).succeed
    host := (s.host.setRequests rest).goto .checking }) q rfl rfl
  obtain ⟨d, c⟩ := run_readingTx 10 0 (Vector.replicate 10 0#8) { s with
    block := (({ s.block with fieldIn := f } : Block).loadTx (packFrame (fieldBytes f))).succeed
    readData := some (({ s.block with fieldIn := f } : Block).loadTx (packFrame (fieldBytes f))).succeed.status
    host := (((s.host.setRequests rest).goto .checking).setXState .sending).goto
      (.readingTx 0 (Vector.replicate 10 0#8)) } rfl q rfl (fun i h => absurd h (Nat.not_lt_zero _))
  have clear := step_hostWrite (i := .rxClear) (t := memWrite Reg.cmd.addr 0x0004#16)
    (k := fun h => h.goto (.writing (packFrame (fieldBytes f))))
    (s := { s with
      block := (({ s.block with fieldIn := f } : Block).loadTx (packFrame (fieldBytes f))).succeed
      readData := d
      host := ((((s.host.setRequests rest).goto .checking).setXState .sending).goto
        (.readingTx 0 (Vector.replicate 10 0#8))).present (packFrame (fieldBytes f)) none |>.goto
        (.clearing (packFrame (fieldBytes f))) }) q rfl rfl (by simp)
  refine ⟨d, ?_⟩
  rw [show (23 : Nat) = 11 + 12 from rfl, run_add a, show (12 : Nat) = 11 + 1 from rfl, run_succ b,
    show (11 : Nat) = 10 + 1 from rfl]
  exact (run_add c).trans ((run_succ clear).trans rfl)

/-- A transport step of the host: the host changes alone. -/
theorem step_hostAlone {s : State} {h : HostEnv} (q : s.quiet) (issue : hostStep s = .next (s.withHost h)) :
    step s = .next (s.withHost h) := by
  rw [step_quiet q, issue]

/-- A run, then one step in which the host changes alone. -/
theorem run_then {n : Nat} {s u : State} {h : HostEnv} (before : runSteps n s = .next u) (q : u.quiet)
    (issue : hostStep u = .next (u.withHost h)) : runSteps (n + 1) s = .next (u.withHost h) := by
  rw [run_add before, run_succ (step_hostAlone q issue), run_zero]

/-- The block when the request of a send has been encoded and the receive buffer cleared. -/
def Block.sent (b : Block) (f : FieldValues) : Block :=
  ((({ b with fieldIn := f } : Block).loadTx (packFrame (fieldBytes f))).succeed.emptyRx).succeed

@[simp] theorem Block.sent_fieldIn (b : Block) (f : FieldValues) : (b.sent f).fieldIn = f := rfl
@[simp] theorem Block.sent_tx (b : Block) (f : FieldValues) : (b.sent f).tx = packFrame (fieldBytes f) := rfl
@[simp] theorem Block.sent_txValid (b : Block) (f : FieldValues) : (b.sent f).txValid = true := rfl
@[simp] theorem Block.sent_rxbuf (b : Block) (f : FieldValues) : (b.sent f).rxbuf = b.rxbuf := rfl
@[simp] theorem Block.sent_rxCount (b : Block) (f : FieldValues) : (b.sent f).rxCount = 0#8 := rfl
@[simp] theorem Block.sent_dec (b : Block) (f : FieldValues) : (b.sent f).dec = b.dec := rfl
@[simp] theorem Block.sent_decValid (b : Block) (f : FieldValues) : (b.sent f).decValid = b.decValid := rfl
@[simp] theorem Block.sent_ckValid (b : Block) (f : FieldValues) : (b.sent f).ckValid = b.ckValid := rfl
@[simp] theorem Block.sent_decCkCalc (b : Block) (f : FieldValues) : (b.sent f).decCkCalc = b.decCkCalc := rfl
@[simp] theorem Block.sent_ckResult (b : Block) (f : FieldValues) : (b.sent f).ckResult = b.ckResult := rfl
@[simp] theorem Block.sent_err (b : Block) (f : FieldValues) : (b.sent f).err = .none := rfl
@[simp] theorem Block.sent_errIndex (b : Block) (f : FieldValues) : (b.sent f).errIndex = 0#4 := rfl

/-- The host when the request has been presented and written to the transport. -/
def HostEnv.sent (h : HostEnv) (rest : List HostRequest) (k : Nat) (f : FrameBytes) (ws : List WriteAnswer) :
    HostEnv :=
  ((((h.setRequests rest).present f none).call (.write k f.toList) { h.transport with writes := ws }).setXState
    .awaitingResponse).goto .awaiting

/-- Up to and with the transport's `write`, whatever it answers. -/
theorem run_written {s : State} {f : FieldValues} {rest : List HostRequest} {k : Nat} (q : s.quiet)
    (hp : s.host.phase = .ready) (hr : s.host.requests = .send f :: rest) (hk : s.host.session.handle = some k)
    (ok : fieldsOk f) :
    ∃ u : State, runSteps 24 s = .next (u.withHost (u.host.writeFrame (packFrame (fieldBytes f)))) ∧ u.quiet ∧
      u.block = s.block.sent f ∧
      u.host = (((s.host.setRequests rest).setXState .sending).present (packFrame (fieldBytes f)) none).goto
        (.writing (packFrame (fieldBytes f))) := by
  obtain ⟨d, run⟩ := run_toWriting q hp hr hk ok
  exact ⟨_, run_then run q rfl, q, rfl, rfl⟩

/-- Up to and with the transport's `read`, after a good `write`. -/
theorem run_read {s : State} {f : FieldValues} {rest : List HostRequest} {k : Nat} {ws : List WriteAnswer}
    (q : s.quiet) (hp : s.host.phase = .ready) (hr : s.host.requests = .send f :: rest)
    (hk : s.host.session.handle = some k) (ok : fieldsOk f) (hw : s.host.transport.writes = .ok :: ws) :
    ∃ u : State, runSteps 25 s = .next (u.withHost u.host.readResponse) ∧ u.quiet ∧ u.block = s.block.sent f ∧
      u.host = s.host.sent rest k (packFrame (fieldBytes f)) ws := by
  obtain ⟨u, run, qu, hb, hh⟩ := run_written q hp hr hk ok
  have written : u.host.writeFrame (packFrame (fieldBytes f)) = s.host.sent rest k (packFrame (fieldBytes f)) ws := by
    simp only [hh, HostEnv.writeFrame, HostEnv.goto_session, HostEnv.present_session, HostEnv.setXState_session,
      HostEnv.setRequests_session, hk, HostEnv.goto_transport, HostEnv.present_transport,
      HostEnv.setXState_transport, HostEnv.setRequests_transport, Transport.drawWrite, hw]
    rfl
  rw [written] at run
  exact ⟨_, run_then run qu rfl, qu, hb, rfl⟩

/-- The host when the read has been answered with bytes. -/
def HostEnv.received (h : HostEnv) (rest : List HostRequest) (k : Nat) (f : FrameBytes) (ws : List WriteAnswer)
    (rs : List ReadAnswer) : HostEnv :=
  (h.sent rest k f ws).call (.read k 10 h.readTimeout) { h.transport with writes := ws, reads := rs }

/-- Up to the end of the pushes, after a good `write` and a `read` of at most ten bytes. -/
theorem run_pushed {s : State} {f : FieldValues} {rest : List HostRequest} {k : Nat} {ws : List WriteAnswer}
    {bs : List Byte} {rs : List ReadAnswer} (q : s.quiet) (hp : s.host.phase = .ready)
    (hr : s.host.requests = .send f :: rest) (hk : s.host.session.handle = some k) (ok : fieldsOk f)
    (hw : s.host.transport.writes = .ok :: ws) (hd : s.host.transport.reads = .bytes bs :: rs)
    (len : bs.length ≤ 10) :
    ∃ u : State, runSteps (26 + bs.length) s = .next (u.withHost (u.host.afterPushes bs.length)) ∧ u.quiet ∧
      u.block = bs.foldl Block.pushByte (s.block.sent f) ∧
      u.host = (s.host.received rest k (packFrame (fieldBytes f)) ws rs).goto (.pushing [] bs.length) := by
  obtain ⟨u, run, qu, hb, hh⟩ := run_read q hp hr hk ok hw
  have answered : u.host.readResponse =
      (s.host.received rest k (packFrame (fieldBytes f)) ws rs).goto (.pushing bs bs.length) := by
    have handle : (s.host.sent rest k (packFrame (fieldBytes f)) ws).session.handle = some k := hk
    have draw : (s.host.sent rest k (packFrame (fieldBytes f)) ws).transport.drawRead =
        (.bytes bs, { s.host.transport with writes := ws, reads := rs }) := by
      have reads : (s.host.sent rest k (packFrame (fieldBytes f)) ws).transport.reads = .bytes bs :: rs := hd
      simp only [Transport.drawRead, reads, ReadAnswer.clip, Config.respLen, List.take_of_length_le len]
      rfl
    simp only [hh, HostEnv.readResponse, handle, draw]
    rfl
  rw [answered] at run
  have push := run_pushing bs.length bs (u.withHost
    ((s.host.received rest k (packFrame (fieldBytes f)) ws rs).goto (.pushing bs bs.length))) qu rfl
  rw [State.withHost_block, hb] at push
  rw [show 26 + bs.length = 25 + bs.length + 1 by omega]
  exact ⟨_, run_then ((run_add run).trans push) qu rfl, qu, rfl, rfl⟩

end Sys2Proof.Machine
end

