-- ==== Sys2Proof/Tests/Slice0.lean ====
section
/-! SUPPORT. The model's own tests. Words and results are taken from the spec: the encodings of spec/30_encoding.md and
spec/opcode_table.json, the rules' examples, and the vectors of spec/95_test_vectors.md (named in each docstring). The
second half holds one witness for each statement of Certificates/Slice0/Obligations.lean that has hypotheses. -/

namespace Sys2Proof.Tests

open Sys2Proof.Machine

/-! ## Well-formedness -/

/-- 0x0001 is the legal word `ENCODE` (R78), so it is no illegal command. -/
theorem test_wellFormed_refuses_legal_command : (Instr.cmdIllegal 0x00#8 0x01#8).wellFormed = false := by decide

/-- 0x0101 is illegal by its reserved bits (R77), 0x0005 by its opcode (R78). -/
theorem test_wellFormed_accepts_illegal_command :
    (Instr.cmdIllegal 0x01#8 0x01#8).wellFormed = true ∧ (Instr.cmdIllegal 0x00#8 0x05#8).wellFormed = true := by
  decide

/-- Writes to `CMD`, `RX_DATA` and the field registers are not ignored (R76). -/
theorem test_wellFormed_refuses_writable_address :
    (Instr.wrIgnored 0x00#8 0#16).wellFormed = false ∧ (Instr.wrIgnored 0x03#8 0#16).wellFormed = false ∧
    (Instr.wrIgnored 0x10#8 0#16).wellFormed = false ∧ (Instr.wrIgnored 0x18#8 0#16).wellFormed = false := by decide

/-- Writes beside them are (R166). -/
theorem test_wellFormed_accepts_ignored_address :
    (Instr.wrIgnored 0x01#8 0#16).wellFormed = true ∧ (Instr.wrIgnored 0x0F#8 0#16).wellFormed = true ∧
    (Instr.wrIgnored 0x19#8 0#16).wellFormed = true ∧ (Instr.wrIgnored 0xFF#8 0#16).wellFormed = true := by decide

/-! ## Decoding: the words of the spec's encodings -/

/-- The five command words (R84). -/
theorem test_decode_commands :
    decode 0x1000000#25 = .nop ∧ decode 0x1000001#25 = .encode ∧ decode 0x1000002#25 = .decode ∧
    decode 0x1000003#25 = .checksum ∧ decode 0x1000004#25 = .rxClear := by decide

/-- R162: 0x1000005 to 0x100FFFF, the reserved bits first (D-MISC-2, D-MISC-4). -/
theorem test_decode_illegal :
    decode 0x1000005#25 = .cmdIllegal 0x00#8 0x05#8 ∧ decode 0x1000101#25 = .cmdIllegal 0x01#8 0x01#8 ∧
    decode 0x100FFFF#25 = .cmdIllegal 0xFF#8 0xFF#8 := by decide

/-- R163: `WR RX_DATA, 0xAB12`, in binary as `W`, `ADDR`, `DATA`. -/
theorem test_decode_push :
    decode (0b1#1 ++ 0b00000011#8 ++ 0b1010101100010010#16) = .rxPush 0xAB#8 0x12#8 := by decide

/-- The words of program P1 for fields 0 to 4 (R164). -/
theorem test_decode_fields_low :
    decode 0x1100002#25 = .wrFiStart 0x0002#16 ∧ decode 0x1110001#25 = .wrFiDev 0x0001#16 ∧
    decode 0x1120010#25 = .wrFiCmd 0x0010#16 ∧ decode 0x1130000#25 = .wrFiPrm 0x0000#16 ∧
    decode 0x1140100#25 = .wrFiErr 0x0100#16 := by decide

/-- The words of program P4 for fields 5 to 8 (R164). -/
theorem test_decode_fields_high :
    decode 0x1150012#25 = .wrFiD3 0x0012#16 ∧ decode 0x1160034#25 = .wrFiD2 0x0034#16 ∧
    decode 0x1170056#25 = .wrFiD1 0x0056#16 ∧ decode 0x1180078#25 = .wrFiD0 0x0078#16 := by decide

/-- R166: writes to `STATUS`, beside the field registers and at the last address. -/
theorem test_decode_ignored :
    decode 0x101FFFF#25 = .wrIgnored 0x01#8 0xFFFF#16 ∧ decode 0x1190000#25 = .wrIgnored 0x19#8 0x0000#16 ∧
    decode 0x1FF0001#25 = .wrIgnored 0xFF#8 0x0001#16 := by decide

/-- R165: `RD STATUS` and `RD DEC9` of program P2; the data field of a read is ignored. -/
theorem test_decode_reads :
    decode 0x0010000#25 = .rd 0x01#8 0x0000#16 ∧ decode 0x0390000#25 = .rd 0x39#8 0x0000#16 ∧
    decode 0x000BEEF#25 = .rd 0x00#8 0xBEEF#16 := by decide

/-- Byte strings that are no transaction word are rejected by name (log entry 11). -/
theorem test_decodeBytes_rejects :
    decodeBytes [0x01#8, 0x00#8, 0x00#8] = .error .wrongLength ∧
    decodeBytes [0x01#8, 0x00#8, 0x00#8, 0x02#8] = .error .bitsAboveWord ∧
    decodeBytes [0x01#8, 0x00#8, 0x00#8, 0x01#8] = .ok .encode := by
  refine ⟨rfl, rfl, rfl⟩

/-- The table's numbering: bit 0 of the word is bit 0 of the number. -/
theorem test_decodeTableWord :
    decodeTableWord 25 0x1000001 = some .encode ∧ decodeTableWord 25 0x1120010 = some (.wrFiCmd 0x0010#16) := by decide

/-- Addresses of named registers (R51, R83). -/
theorem test_register_names :
    Reg.addr (.fieldIn 2) = 0x12#8 ∧ regName (.fieldIn 2) = "FI_CMD" ∧ Reg.addr (.dec 9) = 0x39#8 ∧
    regName (.dec 9) = "DEC9" := by decide

/-- R84: `PUSH b` is 0x10300bb, `SETF i, v` is 0x11(0+i)vvvv, a negative immediate is its two's complement, and an
immediate beyond 16 bits cannot be written. -/
theorem test_assemble :
    assemble (.push 0x19#8) = some [0x1030019#25] ∧ assemble (.setf 8 5) = some [0x1180005#25] ∧
    assemble (.wr 0x13#8 (-1)) = some [0x113FFFF#25] ∧ assemble (.wr 0x13#8 65536) = none := by decide

/-! ## One transaction at a time -/

/-- The state after an instruction. -/
def after (i : Instr) (s : State) : State :=
  match exec i s with
  | .next t => t
  | .fault _ => s
  | .refused _ => s

/-- Reset state with these block registers. -/
def withBlock (b : Block) : State := { State.reset with block := b }

/-- Reset state with these field registers. -/
def withFields (f : FieldValues) : State := withBlock { Block.reset with fieldIn := f }

/-- Reset state with these ten bytes received. -/
def withReceived (f : FrameBytes) : State := withBlock { Block.reset with rxbuf := f, rxCount := 10#8 }

/-- The field values of E1. -/
def fieldsE1 : FieldValues := #v[0x0002, 0x0001, 0x0010, 0x0000, 0x0000, 0x0000, 0x0000, 0x0000, 0x0005]

/-- The frame of E1. -/
def frameE1 : FrameBytes := #v[0x02, 0x01, 0x10, 0x00, 0x00, 0x00, 0x00, 0x00, 0x05, 0x18]

/-- The corrupted response of E2. -/
def frameE2 : FrameBytes := #v[0x02, 0x01, 0x10, 0x00, 0x00, 0x00, 0x00, 0x00, 0x05, 0x19]

/-- The fields of D-ENC-4: index 2 is -1, index 7 is 256. -/
def fieldsBad : FieldValues := #v[0x0000, 0x0000, 0xFFFF, 0x0000, 0x0000, 0x0000, 0x0000, 0x0100, 0x0000]

/-- A block whose `STATUS` is 0x0401 (R160). -/
def blockWithError : Block := { Block.reset with err := .outOfRange, errIndex := 4#4 }

/-- D-CK-2, D-CK-4, D-CK-9. -/
theorem test_checksum_function :
    checksum (Vector.replicate 9 0xFF#8) = 0xF7#8 ∧ checksum #v[0x80, 0x80, 0, 0, 0, 0, 0, 0, 0] = 0x00#8 ∧
    checksum #v[0x7E, 0x01, 0x02, 0x03, 0x00, 0x12, 0x34, 0x56, 0x78] = 0x98#8 := by decide

/-- D-ENC-1 (E1). -/
theorem test_encode_success :
    (after .encode (withFields fieldsE1)).block.tx = frameE1 ∧
    (after .encode (withFields fieldsE1)).block.status = 0x0008#16 := by decide

/-- D-ENC-4 and D-ENC-10: the lowest index is reported, the earlier bytes stay, the flag drops. -/
theorem test_encode_failure :
    let s := withBlock { Block.reset with fieldIn := fieldsBad, tx := frameE1, txValid := true }
    (after .encode s).block.tx = frameE1 ∧ (after .encode s).block.status = 0x0201#16 := by decide

/-- D-CKC-1. -/
theorem test_checksum_success :
    (after .checksum (withFields fieldsE1)).block.ckResult = 0x18#8 ∧
    (after .checksum (withFields fieldsE1)).block.status = 0x0000#16 := by decide

/-- D-CKC-4 with an earlier result: unchanged on failure. -/
theorem test_checksum_failure :
    let s := withBlock { Block.reset with fieldIn := Vector.replicate 9 0#16 |>.set 8 0xFFFF#16, ckResult := 0x18#8 }
    (after .checksum s).block.ckResult = 0x18#8 ∧ (after .checksum s).block.status = 0x0801#16 := by decide

/-- D-DEC-2 (E2): a mismatch is no error. -/
theorem test_decode_mismatch :
    let t := after .decode (withReceived frameE2)
    t.block.dec = frameE2 ∧ t.block.decCkCalc = 0x18#8 ∧ t.block.status = 0x0010#16 ∧ t.block.rxCount = 0#8 := by
  decide

/-- D-DEC-13: a second `DECODE` with nothing pushed fails and keeps the decoded frame and its flags. -/
theorem test_decode_short :
    let t := after .decode (withBlock { Block.reset with dec := frameE1, decValid := true, ckValid := true })
    t.block.dec = frameE1 ∧ t.block.status = 0x0032#16 := by decide

/-- D-MISC-1. -/
theorem test_nop : (after .nop (withBlock blockWithError)).block.status = 0x0000#16 := by decide

/-- D-RX-5: the count is cleared, the bytes stay. -/
theorem test_rxClear :
    let t := after .rxClear (withBlock { blockWithError with rxbuf := frameE1, rxCount := 7#8 })
    t.block.rxCount = 0#8 ∧ t.block.rxbuf = frameE1 ∧ t.block.err = .none := by decide

/-- D-MISC-4: `WR CMD, 0x0101` after D-ENC-1. -/
theorem test_illegal :
    let t := after (decode 0x1000101#25) (withBlock { Block.reset with tx := frameE1, txValid := true })
    t.block.status = 0x000B#16 ∧ t.block.tx = frameE1 := by decide

/-- R163's example: the tenth byte. -/
theorem test_push_tenth :
    let t := after (decode 0x1030019#25) (withBlock { Block.reset with rxCount := 9#8 })
    t.block.rxbuf[9] = 0x19#8 ∧ t.block.rxCount = 10#8 ∧ t.block.status = 0x0040#16 := by decide

/-- D-RX-2 and D-RX-3: the eleventh byte is counted and dropped; at 255 the count stays. -/
theorem test_push_beyond :
    let t := after (.rxPush 0#8 0xAB#8) (withReceived frameE1)
    t.block.rxbuf = frameE1 ∧ t.block.status = 0x0080#16 ∧
    (after (.rxPush 0#8 0xAB#8) (withBlock { Block.reset with rxCount := 255#8 })).block.rxCount = 255#8 := by decide

/-- Program P1's writes of fields 0 to 4, each to its own register (R22). -/
theorem test_fields_low :
    (after (.wrFiStart 0x0002#16) State.reset).block.fieldIn[0] = 0x0002#16 ∧
    (after (.wrFiDev 0x0001#16) State.reset).block.fieldIn[1] = 0x0001#16 ∧
    (after (.wrFiCmd 0x0010#16) State.reset).block.fieldIn[2] = 0x0010#16 ∧
    (after (.wrFiPrm 0xFFFF#16) State.reset).block.fieldIn[3] = 0xFFFF#16 ∧
    (after (.wrFiErr 0x0100#16) State.reset).block.fieldIn[4] = 0x0100#16 := by decide

/-- Program P4's writes of fields 5 to 8 (R22). -/
theorem test_fields_high :
    (after (.wrFiD3 0x0012#16) State.reset).block.fieldIn[5] = 0x0012#16 ∧
    (after (.wrFiD2 0x0034#16) State.reset).block.fieldIn[6] = 0x0034#16 ∧
    (after (.wrFiD1 0x0056#16) State.reset).block.fieldIn[7] = 0x0056#16 ∧
    (after (.wrFiD0 0x0078#16) State.reset).block.fieldIn[8] = 0x0078#16 := by decide

/-- D-MISC-8: a write to `TX9` cannot forge a frame. -/
theorem test_ignored :
    (after (decode 0x1290000#25) (withBlock { Block.reset with tx := frameE1, txValid := true })).block.tx = frameE1 := by
  decide

/-- `RD STATUS` of D-MISC-9 and `RD TX9` of program P1. -/
theorem test_read :
    (after (decode 0x0010000#25) (withBlock blockWithError)).readData = some 0x0401#16 ∧
    (after (decode 0x0290000#25) (withBlock { Block.reset with tx := frameE1 })).readData = some 0x0018#16 := by decide

/-- D-MISC-7. -/
theorem test_read_zero :
    let s := withBlock { Block.reset with rxCount := 5#8, fieldIn := fieldsE1 }
    (after (.rd 0x00#8 0#16) s).readData = some 0#16 ∧ (after (.rd 0x03#8 0#16) s).readData = some 0#16 ∧
    (after (.rd 0x06#8 0#16) s).readData = some 0#16 ∧ (after (.rd 0xFF#8 0#16) s).readData = some 0#16 := by decide

/-! ## Steps -/

/-- The state after a step. -/
def stepped (s : State) : State :=
  match step s with
  | .next t => t
  | .fault _ => s
  | .refused _ => s

/-- `withFetchWord` places the word where the next step takes it. -/
theorem test_withFetchWord :
    (stepped (State.reset.withFetchWord 25 0x1120010)).block.fieldIn[2] = 0x0010#16 ∧
    (stepped (State.reset.withFetchWord 25 0x1120010)).agenda = [] := by decide

/-- R250: a write under reset has no effect. -/
theorem test_write_under_reset :
    (stepped { State.reset with resetIn := true, agenda := [.transaction 0x1100002#25] }).block.fieldIn[0] = 0#16 := by
  decide

/-- R250: a read under reset returns 0x0000, whatever stands in the register. -/
theorem test_read_under_reset :
    (stepped { withFields fieldsE1 with resetIn := true, agenda := [.transaction 0x0100000#25] }).readData =
      some 0#16 := by decide

/-- Reset state with this host. -/
def withHost (h : HostEnv) : State := { State.reset with host := h }

/-- The host with these requests. -/
def asking (rs : List HostRequest) : HostEnv := { HostEnv.initial with requests := rs }

/-- The same with a handle open. -/
def connected (rs : List HostRequest) : HostEnv :=
  { asking rs with session := { handle := some 3, xstate := .idle, lastResponse := none } }

/-- D-X-1 (E7). -/
theorem test_send_unconnected :
    let t := stepped (withHost (asking [.send fieldsE1]))
    t.host.reports = [.notConnected] ∧ t.host.calls = [] ∧ t.host.phase = .ready ∧
    t.host.session.xstate = .idle := by decide

/-- R185 with D39: the same from `Complete` ends in `Idle`. -/
theorem test_send_unconnected_after_complete :
    let h := { asking [.send fieldsE1] with
      session := { handle := none, xstate := .complete, lastResponse := some (Frame.ofBytes frameE1, true) } }
    (stepped (withHost h)).host.session =
      { handle := none, xstate := .idle, lastResponse := some (Frame.ofBytes frameE1, true) } := by decide

/-- R11, R183: the baud rate passed to the transport is the host's parameter. -/
theorem test_open_passes_baud :
    let h := { asking [.openPort "COM1"] with
      baud := 19200, transport := { opens := [.handle 7], writes := [], reads := [], draws := 0 } }
    (stepped (withHost h)).host.calls = [.openPort "COM1" 19200] ∧
    (stepped (withHost h)).host.session.handle = some 7 := by decide

/-- D-X-8. -/
theorem test_open_again :
    let t := stepped (withHost (connected [.openPort "COM1"]))
    t.host.reports = [.alreadyOpen] ∧ t.host.session.handle = some 3 ∧ t.host.calls = [] := by decide

/-- D-X-9. -/
theorem test_close_unopened :
    let t := stepped (withHost (asking [.closePort]))
    t.host.reports = [.closed] ∧ t.host.calls = [] := by decide

/-- D-X-7: a read of no bytes, none of them to be pushed, is a timeout. -/
theorem test_read_nothing :
    let h := { connected [] with
      session := { handle := some 3, xstate := .awaitingResponse, lastResponse := none }
      phase := .pushing [] 0 }
    (stepped (withHost h)).host.reports = [.timeout] ∧ (stepped (withHost h)).host.session.xstate = .incomplete := by
  decide

/-! ## Witnesses: states and operands that meet the hypotheses of the statements -/

theorem witness_TransactionWordDecoding :
    (0x0010000#25).getLsbD 24 = false ∧ (0x1000101#25).getLsbD 24 = true ∧
    (0x1000101#25).extractLsb' 16 8 = 0x00#8 ∧ (0x1000101#25).extractLsb' 8 8 ≠ 0#8 ∧
    (0x1000004#25).extractLsb' 8 8 = 0#8 ∧ (0x1000004#25).extractLsb' 0 8 = 0x04#8 ∧
    0x05 ≤ ((0x1000005#25).extractLsb' 0 8).toNat ∧ 0x05 ≤ ((0x10000FF#25).extractLsb' 0 8).toNat ∧
    (0x103AB12#25).extractLsb' 16 8 = 0x03#8 := by decide

theorem witness_TransactionWordDecoding_addresses :
    ((0x1100000#25).extractLsb' 16 8).toNat = 0x10 + (0 : Fin 9).val ∧
    ((0x1180000#25).extractLsb' 16 8).toNat = 0x10 + (8 : Fin 9).val ∧
    (0x10F0000#25).extractLsb' 16 8 ≠ 0x03#8 ∧
    ¬ (0x10 ≤ ((0x10F0000#25).extractLsb' 16 8).toNat ∧ ((0x10F0000#25).extractLsb' 16 8).toNat ≤ 0x18) ∧
    ¬ (0x10 ≤ ((0x1190000#25).extractLsb' 16 8).toNat ∧ ((0x1190000#25).extractLsb' 16 8).toNat ≤ 0x18) := by
  decide

theorem witness_EncodeThenDecodeIsIdentity :
    (Instr.cmdIllegal 0x00#8 0x05#8).wellFormed = true ∧ (Instr.wrIgnored 0x19#8 0xFFFF#16).wellFormed = true := by
  decide

theorem witness_DecodeSelectsTableRow :
    (Instr.cmdIllegal 0 0).row ∈ tableRows ∧ (Instr.cmdIllegal 0 0).row.matchesWord 0x1000001#25 = true := by decide

theorem witness_TableWordIsTransactionWord : 0x1FFFFFF < 2 ^ 25 ∧ ¬ 2 ^ 25 < 2 ^ 25 ∧ 2 ^ 25 < 2 ^ 32 := by decide

theorem witness_PseudoInstructionsExpand :
    ∀ i : Fin 9, -32768 ≤ (#v[-32768, 65535, 0, 0, 0, 0, 0, 0, 255] : Vector Int 9)[i] ∧
      (#v[-32768, 65535, 0, 0, 0, 0, 0, 0, 255] : Vector Int 9)[i] ≤ 65535 := by decide

/-- Reset state with these events waiting, under reset or not. -/
def withEvents (r : Bool) (es : List Event) : State := { State.reset with resetIn := r, agenda := es }

theorem witness_StepRunsDecodedTransaction :
    (withEvents false [.transaction 0x1000001#25]).resetIn = false ∧
    (withEvents false [.transaction 0x1000001#25]).agenda = .transaction 0x1000001#25 :: [] := ⟨rfl, rfl⟩

theorem witness_NothingHappensUnasked :
    State.reset.agenda = [] ∧ State.reset.host.phase = .ready ∧ State.reset.host.requests = [] := ⟨rfl, rfl, rfl⟩

theorem witness_ResetInput :
    (withEvents true []).resetIn = true ∧ (0x1000001#25).getLsbD 24 = true ∧ (0x0010000#25).getLsbD 24 = false ∧
    exec .nop (withFields fieldsE1) = .next (after .nop (withFields fieldsE1)) ∧ isCommand .nop ∧
    (withFields fieldsE1).block.fieldIn[(0 : Fin 9)] ≠ 0#16 ∧
    (withFields fieldsE1).block.fieldIn[(8 : Fin 9)] ≠ 0#16 :=
  ⟨rfl, by decide, by decide, rfl, .inl rfl, by decide, by decide⟩

theorem witness_TransactionAfterResetRelease :
    (withEvents true [.resetLine true]).agenda = .resetLine true :: [] ∧
    (withEvents true [.resetLine false, .transaction 0x1000001#25]).resetInv ∧
    (withEvents true [.resetLine false, .transaction 0x1000001#25]).resetIn = true ∧
    (withEvents true [.resetLine false, .transaction 0x1000001#25]).agenda =
      .resetLine false :: .transaction 0x1000001#25 :: [] := ⟨rfl, fun _ => rfl, rfl, rfl⟩

theorem witness_PlatformWindow :
    Config.baseAddr + 256 < Config.baseAddr ∨ Config.baseAddr + 256 ≤ Config.baseAddr + 256 := .inr (Nat.le_refl _)

theorem witness_RegisterMapOneToOne :
    Reg.ofAddr 0x49#8 = some (.rxbuf 9) ∧ Reg.ofAddr 0x4A#8 = none ∧ 0x4A ≤ (0x4A#8).toNat ∧
    Reg.ofAddr 0x0F#8 = none ∧ (0x0F#8).toNat ≤ 0x0F := by decide

theorem witness_ReadReturnsRegister :
    (0x10#8).toNat = 0x10 + (0 : Fin 9).val ∧ (0x18#8).toNat = 0x10 + (8 : Fin 9).val ∧
    (0x20#8).toNat = 0x20 + (0 : Fin 10).val ∧ (0x29#8).toNat = 0x20 + (9 : Fin 10).val ∧
    (0x39#8).toNat = 0x30 + (9 : Fin 10).val ∧ (0x49#8).toNat = 0x40 + (9 : Fin 10).val ∧
    Reg.ofAddr 0x06#8 = none ∧ Reg.ofAddr 0xFF#8 = none := by decide

theorem witness_StatusFields :
    Block.reset.err = .none ∧ blockWithError.err = .outOfRange ∧
    ({ Block.reset with err := .shortFrame } : Block).err = .shortFrame ∧
    ({ Block.reset with err := .illegalCommand } : Block).err = .illegalCommand := by decide

theorem witness_StatusForetellsDecode :
    (withBlock { Block.reset with rxCount := 10#8 }).block.status.getLsbD 6 = true ∧
    (withBlock { Block.reset with rxCount := 11#8 }).block.status.getLsbD 7 = true ∧
    (withBlock { Block.reset with rxCount := 9#8 }).block.status.getLsbD 6 = false ∧
    (withBlock { Block.reset with rxCount := 9#8 }).block.status.getLsbD 7 = false := by decide

theorem witness_UnmappedAndWrongDirection :
    Reg.ofAddr 0x19#8 = none ∧ (0x20 ≤ (0x20#8).toNat ∧ (0x29#8).toNat ≤ 0x29) ∧ (0x39#8).toNat ≤ 0x39 ∧
    (0x49#8).toNat ≤ 0x49 := by decide

theorem witness_IgnoredWriteHasNoEffect :
    (0x0F#8 : Addr) ≠ 0x00#8 ∧ (0x0F#8 : Addr) ≠ 0x03#8 ∧ ¬ (0x10 ≤ (0x0F#8).toNat ∧ (0x0F#8).toNat ≤ 0x18) ∧
    ¬ (0x10 ≤ (0x19#8).toNat ∧ (0x19#8).toNat ≤ 0x18) := by decide

theorem witness_IllegalCommandRecorded :
    (0x0100#16).extractLsb' 8 8 ≠ 0#8 ∧ 5 ≤ ((0x0005#16).extractLsb' 0 8 : Byte).toNat ∧
    5 ≤ ((0x00FF#16).extractLsb' 0 8 : Byte).toNat := by decide

theorem witness_RxPushAppendsByte :
    (withBlock { Block.reset with rxCount := 9#8 }).block.rxCount.toNat < 10 ∧
    10 ≤ (withBlock { Block.reset with rxCount := 10#8 }).block.rxCount.toNat ∧
    (withBlock { Block.reset with rxCount := 254#8 }).block.rxCount.toNat < 255 ∧
    (withBlock { Block.reset with rxCount := 255#8 }).block.rxCount.toNat = 255 := by decide

/-- Fields at both ends of the range. -/
def fieldsEdge : FieldValues := #v[0x0000, 0x00FF, 0x0000, 0x00FF, 0x0000, 0x00FF, 0x0000, 0x00FF, 0x00FF]

theorem fieldsOk_edge : fieldsOk fieldsEdge := by
  show ∀ i : Fin 9, 0 ≤ fieldsEdge[i].toInt ∧ fieldsEdge[i].toInt ≤ 255
  decide

/-- The first and the last field out of range, just beside the range. -/
theorem firstBadField_edges :
    firstBadField (fieldsEdge.set 0 0xFFFF#16) 0 ∧ firstBadField (fieldsEdge.set 8 0x0100#16) 8 := by
  refine ⟨⟨?_, ?_⟩, ⟨?_, ?_⟩⟩ <;> unfold fieldOk <;> decide

theorem witness_ChecksumCommand :
    fieldsOk (withFields fieldsEdge).block.fieldIn ∧
    firstBadField (withFields (fieldsEdge.set 8 0x0100#16)).block.fieldIn 8 := ⟨fieldsOk_edge, firstBadField_edges.2⟩

theorem witness_EncodeCommand :
    fieldsOk (withFields fieldsEdge).block.fieldIn ∧
    firstBadField (withFields (fieldsEdge.set 0 0xFFFF#16)).block.fieldIn 0 := ⟨fieldsOk_edge, firstBadField_edges.1⟩

theorem witness_DecodeCommand :
    (withReceived frameE2).block.rxCount = 10#8 ∧
    (withBlock { Block.reset with rxCount := 9#8 }).block.rxCount ≠ 10#8 ∧
    (withBlock { Block.reset with rxCount := 11#8 }).block.rxCount ≠ 10#8 := by decide

theorem witness_CommandsRecordOutcome :
    exec .encode (withFields fieldsEdge) = .next (after .encode (withFields fieldsEdge)) ∧
    fieldsOk (withFields fieldsEdge).block.fieldIn ∧
    exec .decode (withReceived frameE2) = .next (after .decode (withReceived frameE2)) ∧
    (withReceived frameE2).block.rxCount = 10#8 := ⟨rfl, fieldsOk_edge, rfl, rfl⟩

theorem witness_CommandsRecordOutcome_failures :
    exec .checksum (withFields (fieldsEdge.set 8 0x0100#16)) =
      .next (after .checksum (withFields (fieldsEdge.set 8 0x0100#16))) ∧
    firstBadField (withFields (fieldsEdge.set 8 0x0100#16)).block.fieldIn 8 ∧
    exec .decode State.reset = .next (after .decode State.reset) ∧ State.reset.block.rxCount ≠ 10#8 ∧
    exec (.cmdIllegal 1#8 1#8) State.reset = .next (after (.cmdIllegal 1#8 1#8) State.reset) :=
  ⟨rfl, firstBadField_edges.2, rfl, by decide, rfl⟩

/-- A transaction that is no command. -/
theorem witness_CommandsRecordOutcome_no_command :
    ¬ isCommand (.rxPush 0#8 0x19#8) ∧
    exec (.rxPush 0#8 0x19#8) (withBlock blockWithError) =
      .next (after (.rxPush 0#8 0x19#8) (withBlock blockWithError)) := ⟨by simp [isCommand], rfl⟩

theorem witness_OutOfRangeCause :
    exec .encode (withFields (fieldsEdge.set 0 0xFFFF#16)) =
      .next (after .encode (withFields (fieldsEdge.set 0 0xFFFF#16))) ∧
    isCommand .encode ∧ (after .encode (withFields (fieldsEdge.set 0 0xFFFF#16))).block.err = .outOfRange :=
  ⟨rfl, by simp [isCommand], by decide⟩

theorem witness_ShortFrameCause :
    exec .decode State.reset = .next (after .decode State.reset) ∧ isCommand .decode ∧
    (after .decode State.reset).block.err = .shortFrame := ⟨rfl, by simp [isCommand], by decide⟩

theorem witness_IllegalCommandCause :
    exec (decode (makeTxn true 0x00#8 0x0005#16)) State.reset =
      .next (after (decode (makeTxn true 0x00#8 0x0005#16)) State.reset) ∧ 4 < (0x0005#16).toNat ∧
    exec (decode (makeTxn true 0x00#8 0x0004#16)) State.reset =
      .next (after (decode (makeTxn true 0x00#8 0x0004#16)) State.reset) ∧ ¬ 4 < (0x0004#16).toNat :=
  ⟨rfl, by decide, rfl, by decide⟩

theorem fieldWrite_ne_push (k : Fin 9) (v : Word) : Instr.rxPush 0#8 0x19#8 ≠ fieldWrite k v := by
  fin_cases k <;> simp [fieldWrite]

theorem witness_EachRegisterHasItsWriters :
    exec (.rxPush 0#8 0x19#8) State.reset = .next (after (.rxPush 0#8 0x19#8) State.reset) ∧
    (∀ k v, Instr.rxPush 0#8 0x19#8 ≠ fieldWrite k v) ∧ Instr.rxPush 0#8 0x19#8 ≠ .encode ∧
    (∀ a d, Instr.rxPush 0#8 0x19#8 ≠ .rd a d) ∧
    exec .encode State.reset = .next (after .encode State.reset) ∧ (∀ x y, Instr.encode ≠ .rxPush x y) ∧
    Instr.encode ≠ .decode ∧ Instr.encode ≠ .rxClear ∧ Instr.encode ≠ .checksum :=
  ⟨rfl, fieldWrite_ne_push, by simp, by simp, rfl, by simp, by simp, by simp, by simp⟩

theorem witness_RegisterReadsUnchangedElsewhere :
    exec (.rxPush 0#8 0x19#8) (withBlock { Block.reset with rxCount := 9#8 }) =
      .next (after (.rxPush 0#8 0x19#8) (withBlock { Block.reset with rxCount := 9#8 })) ∧
    (0x48#8 : Addr) ≠ 0x01#8 ∧ (0x48#8 : Addr) ≠ 0x02#8 ∧ (0x48#8).toNat ≠ 0x40 + (9#8).toNat ∧
    (∀ k v, Instr.rxPush 0#8 0x19#8 = fieldWrite k v → (0x48#8).toNat ≠ 0x10 + k.val) :=
  ⟨rfl, by decide, by decide, by decide, fun k v h => absurd h (fieldWrite_ne_push k v)⟩

theorem witness_FlagsSetAndCleared :
    exec .encode (withFields fieldsE1) = .next (after .encode (withFields fieldsE1)) ∧
    (after .encode (withFields fieldsE1)).block.txValid ≠ (withFields fieldsE1).block.txValid ∧
    exec .decode (withReceived frameE1) = .next (after .decode (withReceived frameE1)) ∧
    (after .decode (withReceived frameE1)).block.decValid ≠ (withReceived frameE1).block.decValid ∧
    (after .decode (withReceived frameE1)).block.ckValid ≠ (withReceived frameE1).block.ckValid ∧
    (after .decode (withReceived frameE1)).block.err = .none :=
  ⟨rfl, by decide, rfl, by decide, by decide, by decide⟩

theorem witness_TransactionDependsOnBlockAlone :
    State.reset.block = (withEvents true [.hostTurn]).block ∧
    exec (.rd 0x01#8 0#16) State.reset = .next (after (.rd 0x01#8 0#16) State.reset) ∧
    exec (.rd 0x01#8 0#16) (withEvents true [.hostTurn]) =
      .next (after (.rd 0x01#8 0#16) (withEvents true [.hostTurn])) := ⟨rfl, rfl, rfl⟩

theorem witness_ChecksumLaws :
    (#v[0x02#8, 0x01, 0x10, 0, 0, 0, 0, 0, 5] : Vector Byte 9).toList.Perm
      (#v[0x02#8, 0x10, 0x01, 0, 0, 0, 0, 0, 5] : Vector Byte 9).toList := by decide

theorem witness_EncodeFunction :
    (∃ i : Fin 9, (#v[0, 0, 0, 0, 0, 0, 0, 0, -1] : Vector Int 9)[i] < 0) ∧
    (∃ i : Fin 9, 255 < (#v[256, 0, 0, 0, 0, 0, 0, 0, 0] : Vector Int 9)[i]) ∧
    (∀ i : Fin 9, 0 ≤ (#v[0, 255, 0, 0, 0, 0, 0, 0, 255] : Vector Int 9)[i] ∧
      (#v[0, 255, 0, 0, 0, 0, 0, 0, 255] : Vector Int 9)[i] ≤ 255) := by decide

theorem witness_DecodeFunction :
    ([] : List Byte).length ≠ 10 ∧ (List.replicate 9 0#8).length ≠ 10 ∧ (List.replicate 11 0#8).length ≠ 10 := by
  decide

theorem witness_LoopbackRoundTrip :
    (∃ f : FrameBytes, encodeFrame #v[2, 1, 16, 0, 0, 0, 0, 0, 5] = .ok f) ∧
    (withFields fieldsEdge).resetIn = false ∧ fieldsOk (withFields fieldsEdge).block.fieldIn :=
  ⟨⟨_, rfl⟩, rfl, fieldsOk_edge⟩

/-- Frames of D-DEC-1, D-DEC-10 and D-DEC-11. -/
theorem witness_DetectionPower :
    validFrame frameE1 = true ∧ (0x19#8 : Byte) ≠ frameE1[9] ∧
    (frameE1.toList.take 9).Perm
      ((#v[0x02, 0x10, 0x01, 0x00, 0x00, 0x00, 0x00, 0x00, 0x05, 0x18] : FrameBytes).toList.take 9) ∧
    frameE1[9] = (#v[0x02, 0x10, 0x01, 0x00, 0x00, 0x00, 0x00, 0x00, 0x05, 0x18] : FrameBytes)[9] := by decide

theorem witness_DetectionPower_compensating :
    frameE1[9] = (#v[0x02, 0x02, 0x0F, 0x00, 0x00, 0x00, 0x00, 0x00, 0x05, 0x18] : FrameBytes)[9] ∧
    (∃ k : Int, (((frameE1.toList.take 9).map BitVec.toNat).sum : Int) -
      (((#v[0x02, 0x02, 0x0F, 0x00, 0x00, 0x00, 0x00, 0x00, 0x05, 0x18] : FrameBytes).toList.take 9).map
        BitVec.toNat).sum = 256 * k) := ⟨by decide, 0, by decide⟩

theorem witness_PushThenDecodeAgrees :
    State.reset.resetIn = false ∧ State.reset.block.rxCount = 0#8 := ⟨rfl, rfl⟩

/-- The host waiting for a response. -/
def awaitingHost : HostEnv :=
  { connected [.closePort] with
    session := { handle := some 3, xstate := .awaitingResponse, lastResponse := none }
    phase := .awaiting
    transport := { opens := [], writes := [], reads := [.bytes [0x02#8]], draws := 0 } }

theorem awaitingHost_inv : (withHost awaitingHost).Inv := by
  refine ⟨⟨⟨?_, ?_⟩, ?_, ?_, ?_⟩, ⟨?_, ?_, ?_, ?_⟩, ?_⟩ <;>
    first | decide | trivial | (intro h; exact absurd h (by decide))

theorem witness_StepKeepsInvariant :
    (withHost awaitingHost).Inv ∧ step (withHost awaitingHost) = .next (stepped (withHost awaitingHost)) :=
  ⟨awaitingHost_inv, rfl⟩

/-- The phase before the first field write, the exchange state still `Idle`. -/
theorem witness_OneExchangeAtATime_loading :
    (withHost { connected [.closePort] with phase := .loading fieldsE1 0 }).host.phase ≠ .ready ∧
    step (withHost { connected [.closePort] with phase := .loading fieldsE1 0 }) =
      .next (stepped (withHost { connected [.closePort] with phase := .loading fieldsE1 0 })) := ⟨by decide, rfl⟩

theorem witness_OneExchangeAtATime :
    (withHost awaitingHost).Inv ∧ (withHost awaitingHost).host.session.xstate = .awaitingResponse ∧
    step (withHost awaitingHost) = .next (stepped (withHost awaitingHost)) := ⟨awaitingHost_inv, rfl, rfl⟩

theorem witness_HostActsThroughTransactions :
    hostStep (withHost awaitingHost) = .next (stepped (withHost awaitingHost)) := rfl

theorem witness_SendWithoutHandle :
    (withHost (asking [.send fieldsE1])).agenda = [] ∧ (withHost (asking [.send fieldsE1])).host.phase = .ready ∧
    (withHost (asking [.send fieldsE1])).host.requests = .send fieldsE1 :: [] ∧
    (withHost (asking [.send fieldsE1])).host.session.handle = none := ⟨rfl, rfl, rfl, rfl⟩

/-- The host asked to open, with this handle, policy and transport. -/
def opening (k : Option Nat) (p : OpenPolicy) (os : List OpenAnswer) : State :=
  withHost { asking [.openPort "COM1"] with
    session := { handle := k, xstate := .idle, lastResponse := none }
    openPolicy := p
    transport := { opens := os, writes := [], reads := [], draws := 0 } }

theorem witness_OpenRequest_absent :
    (opening none .failAlreadyOpen [.handle 7]).agenda = [] ∧
    (opening none .failAlreadyOpen [.handle 7]).host.phase = .ready ∧
    (opening none .failAlreadyOpen [.handle 7]).host.requests = .openPort "COM1" :: [] ∧
    (opening none .failAlreadyOpen [.handle 7]).host.session.handle = none ∧
    (opening none .failAlreadyOpen [.handle 7]).host.transport.opens = .handle 7 :: [] ∧
    (opening none .failAlreadyOpen [.transportError]).host.transport.opens = .transportError :: [] :=
  ⟨rfl, rfl, rfl, rfl, rfl, rfl⟩

theorem witness_OpenRequest_present :
    (opening (some 3) .failAlreadyOpen []).host.session.handle = some 3 ∧
    (opening (some 3) .failAlreadyOpen []).host.openPolicy = .failAlreadyOpen ∧
    (opening (some 3) .closeThenOpen [.handle 7]).host.openPolicy = .closeThenOpen ∧
    (opening (some 3) .closeThenOpen [.handle 7]).host.transport.opens = .handle 7 :: [] ∧
    (opening (some 3) .closeThenOpen [.transportError]).host.transport.opens = .transportError :: [] :=
  ⟨rfl, rfl, rfl, rfl, rfl⟩

theorem witness_CloseRequest :
    (withHost (connected [.closePort])).agenda = [] ∧ (withHost (connected [.closePort])).host.phase = .ready ∧
    (withHost (connected [.closePort])).host.requests = .closePort :: [] ∧
    (withHost (connected [.closePort])).host.session.handle = some 3 ∧
    (withHost (asking [.closePort])).host.session.handle = none := ⟨rfl, rfl, rfl, rfl, rfl⟩

/-- The host asked to send, with a handle open and these transport answers. -/
def sending (f : FieldValues) (ws : List WriteAnswer) (rs : List ReadAnswer) : State :=
  withHost { connected [.send f] with transport := { opens := [], writes := ws, reads := rs, draws := 0 } }

/-- D-X-2 with its lowest failing field, and the first and last field. -/
theorem witness_SendOutOfRange :
    (sending (fieldsEdge.set 8 0x0100#16) [] []).agenda = [] ∧
    (sending (fieldsEdge.set 8 0x0100#16) [] []).resetIn = false ∧
    (sending (fieldsEdge.set 8 0x0100#16) [] []).host.phase = .ready ∧
    (sending (fieldsEdge.set 8 0x0100#16) [] []).host.requests = .send (fieldsEdge.set 8 0x0100#16) :: [] ∧
    (sending (fieldsEdge.set 8 0x0100#16) [] []).host.session.handle = some 3 ∧
    firstBadField (fieldsEdge.set 8 0x0100#16) 8 := ⟨rfl, rfl, rfl, rfl, rfl, firstBadField_edges.2⟩

/-- What the four statements on good fields share. -/
theorem sending_ready (f : FieldValues) (ws : List WriteAnswer) (rs : List ReadAnswer) :
    (sending f ws rs).agenda = [] ∧ (sending f ws rs).resetIn = false ∧ (sending f ws rs).host.phase = .ready ∧
    (sending f ws rs).host.requests = .send f :: [] ∧ (sending f ws rs).host.session.handle = some 3 ∧
    (sending f ws rs).host.transport.writes = ws ∧ (sending f ws rs).host.transport.reads = rs :=
  ⟨rfl, rfl, rfl, rfl, rfl, rfl, rfl⟩

/-- D-X-5. -/
theorem witness_SendWriteFails :
    (sending fieldsEdge [.transportError] []).agenda = [] ∧ (sending fieldsEdge [.transportError] []).resetIn = false ∧
    (sending fieldsEdge [.transportError] []).host.phase = .ready ∧
    (sending fieldsEdge [.transportError] []).host.requests = .send fieldsEdge :: [] ∧
    (sending fieldsEdge [.transportError] []).host.session.handle = some 3 ∧ fieldsOk fieldsEdge ∧
    (sending fieldsEdge [.transportError] []).host.transport.writes = .transportError :: [] :=
  ⟨rfl, rfl, rfl, rfl, rfl, fieldsOk_edge, rfl⟩

/-- D-X-6. -/
theorem witness_SendReadFails :
    (sending fieldsEdge [.ok] [.transportError]).host.requests = .send fieldsEdge :: [] ∧
    (sending fieldsEdge [.ok] [.transportError]).agenda = [] ∧
    (sending fieldsEdge [.ok] [.transportError]).resetIn = false ∧
    (sending fieldsEdge [.ok] [.transportError]).host.phase = .ready ∧
    (sending fieldsEdge [.ok] [.transportError]).host.session.handle = some 3 ∧ fieldsOk fieldsEdge ∧
    (sending fieldsEdge [.ok] [.transportError]).host.transport.writes = .ok :: [] ∧
    (sending fieldsEdge [.ok] [.transportError]).host.transport.reads = .transportError :: [] :=
  ⟨rfl, rfl, rfl, rfl, rfl, fieldsOk_edge, rfl, rfl⟩

/-- D-X-4 (nine bytes) and D-X-7 (none). -/
theorem witness_SendShortReadTimesOut :
    (∀ rs : List ReadAnswer,
      (sending fieldsEdge [.ok] rs).agenda = [] ∧ (sending fieldsEdge [.ok] rs).resetIn = false ∧
      (sending fieldsEdge [.ok] rs).host.phase = .ready ∧
      (sending fieldsEdge [.ok] rs).host.requests = .send fieldsEdge :: [] ∧
      (sending fieldsEdge [.ok] rs).host.session.handle = some 3 ∧
      (sending fieldsEdge [.ok] rs).host.transport.writes = .ok :: [] ∧
      (sending fieldsEdge [.ok] rs).host.transport.reads = rs) ∧
    fieldsOk fieldsEdge ∧ (frameE1.toList.take 9).length < 10 ∧ ([] : List Byte).length < 10 :=
  ⟨fun rs => sending_ready fieldsEdge [.ok] rs, fieldsOk_edge, by decide, by decide⟩

/-- D-X-3. -/
theorem witness_SendCompletes :
    (sending fieldsEdge [.ok] [.bytes frameE2.toList]).agenda = [] ∧
    (sending fieldsEdge [.ok] [.bytes frameE2.toList]).resetIn = false ∧
    (sending fieldsEdge [.ok] [.bytes frameE2.toList]).host.phase = .ready ∧
    (sending fieldsEdge [.ok] [.bytes frameE2.toList]).host.requests = .send fieldsEdge :: [] ∧
    (sending fieldsEdge [.ok] [.bytes frameE2.toList]).host.session.handle = some 3 ∧ fieldsOk fieldsEdge ∧
    (sending fieldsEdge [.ok] [.bytes frameE2.toList]).host.transport.writes = .ok :: [] ∧
    (sending fieldsEdge [.ok] [.bytes frameE2.toList]).host.transport.reads = .bytes frameE2.toList :: [] :=
  ⟨rfl, rfl, rfl, rfl, rfl, fieldsOk_edge, rfl, rfl⟩

end Sys2Proof.Tests
end

section
/-! SUPPORT. The block's registers at reset (spec/10_state.md R41), the fields of `STATUS` (R27), and the two
instructions that reach `STATUS`: a read and an ignored write. Settles O13 and O18. -/

namespace Sys2Proof.Machine

/-! ## What a read and an ignored write do -/

/-- A read returns the addressed register's value and changes nothing else (R165). -/
theorem exec_rd (a : Addr) (ign : Word) (s : State) :
    exec (.rd a ign) s = .next { s with readData := some (s.block.readAddr a) } :=
  exec_eq (.rd a ign) s

/-- An ignored write has no effect at all (R166). -/
theorem exec_wrIgnored (a : Addr) (d : Word) (s : State) : exec (.wrIgnored a d) s = .next s :=
  exec_eq (.wrIgnored a d) s

/-- A write to any address that is not writable decodes to an ignored write (R76, case 5). -/
theorem decodeWrite_of_not_writable {a : Addr} (h : writableAddr a = false) (d : Word) :
    decodeWrite a d = .wrIgnored a d := by
  have apart (b : Addr) (hb : writableAddr b = true) : a ≠ b := by
    rintro rfl
    simp [hb] at h
  simp only [decodeWrite, apart 0x00#8 rfl, apart 0x03#8 rfl, apart 0x10#8 rfl, apart 0x11#8 rfl, apart 0x12#8 rfl,
    apart 0x13#8 rfl, apart 0x14#8 rfl, apart 0x15#8 rfl, apart 0x16#8 rfl, apart 0x17#8 rfl, apart 0x18#8 rfl,
    if_false]

/-- A write transaction to an address that is not writable changes nothing. -/
theorem exec_write_of_not_writable {a : Addr} (h : writableAddr a = false) (d : Word) (s : State) :
    exec (decode (makeTxn true a d)) s = .next s := by
  rw [decode_makeTxn, if_pos rfl, decodeWrite_of_not_writable h, exec_wrIgnored]

/-! ## The block at reset -/

theorem Block.reset_fieldIn (i : Fin 9) : Block.reset.fieldIn[i] = 0x0000#16 := by simp [Block.reset]

theorem Block.reset_tx (j : Fin 10) : Block.reset.tx[j] = 0x00#8 := by simp [Block.reset]

theorem Block.reset_rxbuf (j : Fin 10) : Block.reset.rxbuf[j] = 0x00#8 := by simp [Block.reset]

theorem Block.reset_dec (j : Fin 10) : Block.reset.dec[j] = 0x00#8 := by simp [Block.reset]

/-- `STATUS` is zero on the reset registers (R27, R41). -/
theorem Block.reset_status : Block.reset.status = 0x0000#16 := by decide

/-- Settles O13: each register is at the value `Block.reset` gives it, and `RD STATUS` returns the status word of those
registers. -/
theorem resetValues : Obligations.ResetValues := by
  have readStatus : exec (.rd 0x01#8 0#16) State.reset = .next { State.reset with readData := some 0x0000#16 } := by
    have value : State.reset.block.readAddr 0x01#8 = 0x0000#16 :=
      (readAddr_status State.reset.block).trans Block.reset_status
    rw [exec_rd, value]
  exact ⟨Block.reset_fieldIn, fun j => ⟨Block.reset_tx j, Block.reset_rxbuf j, Block.reset_dec j⟩,
    rfl, rfl, rfl, rfl, rfl, rfl, rfl, rfl, readStatus⟩

/-! ## The fields of `STATUS` -/

/-- The low three bits of `STATUS` are the code of whatever outcome `ERR` holds (R27, R28). -/
theorem Block.status_errField_of {b : Block} {e : ErrCode} (h : b.err = e) : b.status.extractLsb' 0 3 = e.code :=
  h ▸ b.status_errField

/-- `RX_EXACT` in `STATUS`, in terms of `RX_COUNT` (R38). -/
theorem Block.status_rxCount_ten (b : Block) : b.status.getLsbD 6 = decide (b.rxCount.toNat = 10) :=
  b.status_rxExact

/-- `RX_OVER` in `STATUS`, in terms of `RX_COUNT` (R38). -/
theorem Block.status_rxCount_above_ten (b : Block) : b.status.getLsbD 7 = decide (10 < b.rxCount.toNat) :=
  b.status_rxOver

/-- Settles O18: the field laws of `STATUS`, its value on the reset registers, and address 0x01 not being writable. -/
theorem statusFields : Obligations.StatusFields := by
  refine ⟨fun b => ?fields, Block.reset_status, fun d s => ?ignored⟩
  case fields =>
    exact ⟨Block.status_errField_of, Block.status_errField_of, Block.status_errField_of, Block.status_errField_of,
      b.status_txValid, b.status_decValid, b.status_ckValid, b.status_rxCount_ten, b.status_rxCount_above_ten,
      b.status_errIndex, b.status_reserved⟩
  case ignored =>
    have notWritable : writableAddr 0x01#8 = false := by decide
    exact exec_write_of_not_writable notWritable d s

end Sys2Proof.Machine
end

section
/-! SUPPORT. Accesses in the wrong direction and to unmapped addresses (spec/20_memory.md R52): which addresses are not
writable, and which read as zero. Settles O19. -/

namespace Sys2Proof.Machine

/-! ## Addresses that no write reaches -/

/-- The writable addresses are `CMD`, `RX_DATA` and the nine field registers (R76, cases 2 to 4). -/
theorem writableAddr_iff (a : Addr) :
    writableAddr a = true ↔ a = 0x00#8 ∨ a = 0x03#8 ∨ (0x10 ≤ a.toNat ∧ a.toNat ≤ 0x18) := by
  simp [writableAddr, or_assoc]

/-- Nothing above the field registers is writable: `TX`, `DEC` and `RXBUF` all lie there (R51). -/
theorem not_writable_of_above_fields {a : Addr} (h : 0x19 ≤ a.toNat) : writableAddr a = false := by
  rw [← Bool.not_eq_true, writableAddr_iff]
  rintro (rfl | rfl | ⟨_, atMost⟩)
  · exact absurd h (by decide)
  · exact absurd h (by decide)
  · omega

/-- Every address in the field registers' range is mapped, to the field of that index (R51). -/
theorem ofAddr_fieldRange {a : Addr} (h : 0x10 ≤ a.toNat ∧ a.toNat ≤ 0x18) :
    Reg.ofAddr a = some (.fieldIn ⟨a.toNat - 0x10, by omega⟩) := by
  have small (n : Nat) (hn : n < 0x10) : a.toNat ≠ n := by omega
  simp only [Reg.ofAddr, small, Nat.reduceLT, if_false, dif_pos h]

/-- An unmapped address is not writable: every writable address holds a register. -/
theorem not_writable_of_unmapped {a : Addr} (h : Reg.ofAddr a = none) : writableAddr a = false := by
  rw [← Bool.not_eq_true, writableAddr_iff]
  rintro (rfl | rfl | fieldRange)
  · exact absurd h (by decide)
  · exact absurd h (by decide)
  · simp [ofAddr_fieldRange fieldRange] at h

/-! ## Addresses that read as zero -/

theorem readAddr_unmapped (b : Block) {a : Addr} (h : Reg.ofAddr a = none) : b.readAddr a = 0x0000#16 := by
  simp only [Block.readAddr, h]

theorem readAddr_cmd (b : Block) : b.readAddr Reg.cmd.addr = 0x0000#16 := rfl

theorem readAddr_rxData (b : Block) : b.readAddr Reg.rxData.addr = 0x0000#16 := rfl

/-- A read transaction returns the addressed register's value and changes nothing else (R165). -/
theorem exec_read (a : Addr) (d : Word) (s : State) :
    exec (decode (makeTxn false a d)) s = .next { s with readData := some (s.block.readAddr a) } := by
  rw [decode_makeTxn, if_neg Bool.false_ne_true, exec_rd]

/-- Settles O19: a read returns what `readAddr` gives, which is zero at the unmapped addresses and the two write ports; a
write to an address that is not writable is ignored; and `exec` always answers next. -/
theorem unmappedAndWrongDirection : Obligations.UnmappedAndWrongDirection := by
  refine ⟨fun a d s zeroAddr => ?reads, fun a d s readOnly => ?writes, fun t s => ⟨_, exec_eq (decode t) s⟩⟩
  case reads =>
    have zero : s.block.readAddr a = 0x0000#16 := by
      obtain unmapped | rfl | rfl := zeroAddr
      · exact readAddr_unmapped s.block unmapped
      · exact readAddr_cmd s.block
      · exact readAddr_rxData s.block
    rw [exec_read, zero]
  case writes =>
    have notWritable : writableAddr a = false := by
      obtain unmapped | rfl | rfl | rfl | rfl | ⟨tx, _⟩ | ⟨dec, _⟩ | ⟨rxbuf, _⟩ := readOnly
      · exact not_writable_of_unmapped unmapped
      · rfl
      · rfl
      · rfl
      · rfl
      · exact not_writable_of_above_fields (by omega)
      · exact not_writable_of_above_fields (by omega)
      · exact not_writable_of_above_fields (by omega)
    exact exec_write_of_not_writable notWritable d s

end Sys2Proof.Machine
end

section
/-! SUPPORT. What each transaction word decodes to, by the cases of spec/30_encoding.md R76 with the command words of R77
and R78. Settles O1. -/

namespace Sys2Proof.Machine

/-! ## The fields of the word -/

theorem decode_of_read {t : TxnWord} (h : t.isWrite = false) : decode t = .rd t.addr t.data := by
  simp [decode, h]

theorem decode_of_write {t : TxnWord} (h : t.isWrite = true) : decode t = decodeWrite t.addr t.data := by
  simp [decode, h]

/-- The high byte of `DATA` is the word's bits 15 to 8 (R77). -/
theorem highByte_data (t : TxnWord) : highByte t.data = t.extractLsb' 8 8 := by
  apply BitVec.eq_of_getLsbD_eq
  intro i inByte
  have inData : 8 + i < 16 := by omega
  simp only [highByte, TxnWord.data, BitVec.getLsbD_extractLsb', inByte, inData, decide_true, Bool.true_and,
    Nat.zero_add]

/-- The low byte of `DATA` is the word's bits 7 to 0 (R77). -/
theorem lowByte_data (t : TxnWord) : lowByte t.data = t.extractLsb' 0 8 := by
  simp [lowByte, TxnWord.data]

/-! ## Command words (R77, R78) -/

/-- A command word is decoded from its two fields alone. -/
theorem decodeCommand_of_fields {d : Word} {rsvd opc : Byte} (hr : highByte d = rsvd) (ho : lowByte d = opc) :
    decodeCommand d = decodeCommand (makeCommand rsvd opc) := by
  rw [← hr, ← ho, makeCommand_fields]

theorem decodeCommand_of_rsvd_ne_zero {d : Word} (h : highByte d ≠ 0#8) :
    decodeCommand d = .cmdIllegal (highByte d) (lowByte d) :=
  if_pos h

/-- An operation code above those of the five commands is illegal (R78). -/
theorem decodeCommand_of_opc_ge_five {d : Word} (h : 0x05 ≤ (lowByte d).toNat) :
    decodeCommand d = .cmdIllegal (highByte d) (lowByte d) := by
  have apart (opc : Byte) (small : opc.toNat < 0x05) : lowByte d ≠ opc := by
    rintro rfl
    omega
  simp only [decodeCommand, apart 0x00#8 (by decide), apart 0x01#8 (by decide), apart 0x02#8 (by decide),
    apart 0x03#8 (by decide), apart 0x04#8 (by decide), if_false, ite_self]

/-! ## Writes by address (R76, cases 2 to 5) -/

theorem decodeWrite_cmd (d : Word) : decodeWrite 0x00#8 d = decodeCommand d := rfl

theorem decodeWrite_rxData (d : Word) : decodeWrite 0x03#8 d = .rxPush (highByte d) (lowByte d) := rfl

/-- The address 0x10 + `i` is that of field `i` (R51). -/
theorem eq_fieldIn_addr {a : Addr} {i : Fin 9} (h : a.toNat = 0x10 + i.val) : a = (Reg.fieldIn i).addr :=
  BitVec.eq_of_toNat_eq (by simp only [Reg.addr, BitVec.toNat_ofNat]; omega)

/-- A write to field `i` is the field write of that index. -/
theorem decodeWrite_field (i : Fin 9) (d : Word) : decodeWrite (Reg.fieldIn i).addr d = fieldWrite i d := by
  have field := decode_memWrite_field i d
  rwa [memWrite, decode_makeTxn, if_pos rfl] at field

/-- Settles O1: the cases of `decode` on the direction bit, of `decodeWrite` on the address and of `decodeCommand` on the
two fields of the command word. -/
theorem transactionWordDecoding : Obligations.TransactionWordDecoding := by
  intro t a d rsvd opc
  have high : highByte d = rsvd := highByte_data t
  have low : lowByte d = opc := lowByte_data t
  refine ⟨fun read => decode_of_read read, fun write => ?_⟩
  have byAddress : decode t = decodeWrite a d := decode_of_write write
  refine ⟨fun cmd => ⟨fun reserved => ?reserved, fun unreserved => ?unreserved⟩, fun rxData => ?push,
    fun i fieldAddr => ?field, fun notCmd notRxData notField => ?ignored⟩
  case reserved =>
    rw [byAddress, cmd, decodeWrite_cmd, decodeCommand_of_rsvd_ne_zero (high ▸ reserved), high, low]
  case unreserved =>
    have byCode (code : Byte) (h : opc = code) : decode t = decodeCommand (makeCommand 0#8 code) := by
      rw [byAddress, cmd, decodeWrite_cmd, decodeCommand_of_fields (high.trans unreserved) (low.trans h)]
    refine ⟨byCode 0x00#8, byCode 0x01#8, byCode 0x02#8, byCode 0x03#8, byCode 0x04#8, fun above => ?_⟩
    rw [byAddress, cmd, decodeWrite_cmd, decodeCommand_of_opc_ge_five (low ▸ above), high, low]
  case push =>
    rw [byAddress, rxData, decodeWrite_rxData, high, low]
  case field =>
    rw [byAddress, eq_fieldIn_addr fieldAddr, decodeWrite_field]
  case ignored =>
    have notWritable : writableAddr a = false := by
      rw [← Bool.not_eq_true, writableAddr_iff]
      exact fun writable => writable.elim notCmd fun rest => rest.elim notRxData notField
    rw [byAddress, decodeWrite_of_not_writable notWritable]

end Sys2Proof.Machine
end

section
/-! SUPPORT. The words the assembler gives the pseudo-instructions (spec/30_encoding.md R84), as numbers and as the
operations they decode to. Settles O7. -/

namespace Sys2Proof.Machine

/-! ## Words as numbers -/

/-- The word of three fields as a number: the fields stand at bits 24, 16 and 0 (R74). -/
theorem makeTxn_toNat (w : Bool) (a : Addr) (d : Word) :
    (makeTxn w a d).toNat = w.toNat * 2 ^ 24 + a.toNat * 2 ^ 16 + d.toNat := by
  have dataFits := d.isLt
  have addrFits := a.isLt
  rw [makeTxn, BitVec.toNat_append, BitVec.toNat_append, BitVec.toNat_ofBool,
    ← Nat.shiftLeft_add_eq_or_of_lt dataFits, ← Nat.shiftLeft_add_eq_or_of_lt addrFits, Nat.shiftLeft_eq,
    Nat.shiftLeft_eq]
  omega

theorem fieldIn_addr_toNat (i : Fin 9) : (Reg.fieldIn i).addr.toNat = 0x10 + i.val := by
  simp only [Reg.addr, BitVec.toNat_ofNat]
  omega

/-- The word of a field write as a number (R164). -/
theorem memWrite_field_eq (i : Fin 9) (v : Word) :
    memWrite (Reg.fieldIn i).addr v = BitVec.ofNat 25 (0x1100000 + i.val * 2 ^ 16 + v.toNat) := by
  apply BitVec.eq_of_toNat_eq
  have dataFits := v.isLt
  rw [memWrite, makeTxn_toNat, fieldIn_addr_toNat, BitVec.toNat_ofNat, Bool.toNat_true]
  omega

/-- The word of a push: the digits `10300`, then the byte (R84). -/
theorem memWrite_push_eq (b : Byte) : memWrite Reg.rxData.addr (zext16 b) = (0x10300#17 ++ b : TxnWord) := by
  have top : (0x10300#17 : BitVec 17) = 0x103#9 ++ 0x00#8 := by decide
  rw [top, pushWord_eq, zext16_eq_append]
  rfl

/-! ## What the assembler emits -/

/-- A write whose immediate can be written assembles to the word of its two's complement (R83). -/
theorem assembleWrite_eq {x : Int} (a : Addr) (h : -32768 ≤ x ∧ x ≤ 65535) :
    assembleWrite a x = some (memWrite a (BitVec.ofInt 16 x)) := by
  rw [assembleWrite, imm16, if_pos h, Option.map_some]

theorem assemble_setf {v : Int} (i : Fin 9) (h : -32768 ≤ v ∧ v ≤ 65535) :
    assemble (.setf i v) = some [memWrite (Reg.fieldIn i).addr (BitVec.ofInt 16 v)] := by
  rw [assemble, assembleWrite_eq _ h, Option.map_some]

/-- `LOAD` writes the nine fields in field order (R84). -/
theorem assemble_load {v : Vector Int 9} (h : ∀ i : Fin 9, -32768 ≤ v[i] ∧ v[i] ≤ 65535) :
    assemble (.load v) =
      some ((List.finRange 9).map fun i => memWrite (Reg.fieldIn i).addr (BitVec.ofInt 16 v[i])) := by
  have each : (fun i : Fin 9 => assembleWrite (Reg.fieldIn i).addr v[i]) =
      fun i => pure (memWrite (Reg.fieldIn i).addr (BitVec.ofInt 16 v[i])) :=
    funext fun i => assembleWrite_eq _ (h i)
  rw [assemble, each, List.mapM_pure]
  rfl

theorem decode_memRead (a : Addr) : decode (memRead a) = .rd a 0#16 := by
  rw [memRead, decode_makeTxn, if_neg Bool.false_ne_true]

/-- Reads of consecutive registers, decoded: the addresses count up from the first. -/
theorem map_decode_memRead {r : Fin 10 → Reg} {base : Nat} (h : ∀ j, (r j).addr = BitVec.ofNat 8 (base + j.val)) :
    ((List.finRange 10).map fun j => memRead (r j).addr).map decode =
      (List.range 10).map fun j => Instr.rd (BitVec.ofNat 8 (base + j)) 0#16 := by
  simp only [List.map_map, ← List.map_coe_finRange_eq_range, Function.comp_def, decode_memRead, h]

/-- Settles O7: the commands are fixed words, the writes follow `memWrite_push_eq` and `memWrite_field_eq`, and the lists
decode word by word. -/
theorem pseudoInstructionsExpand : Obligations.PseudoInstructionsExpand := by
  refine ⟨?commands, fun b => ?push, fun i v least greatest => ?setf, fun v writable => ?load, fun f => ?pushf,
    ⟨_, rfl, map_decode_memRead fun _ => rfl⟩, ⟨_, rfl, map_decode_memRead fun _ => rfl⟩⟩
  case commands => decide
  case push => rw [assemble, memWrite_push_eq]
  case setf => rw [assemble_setf i ⟨least, greatest⟩, memWrite_field_eq]
  case load =>
    refine ⟨_, assemble_load writable, ?_⟩
    simp only [List.map_map, Function.comp_def, decode_memWrite_field]
  case pushf =>
    refine ⟨_, rfl, ?_⟩
    simp only [List.map_map, Function.comp_def, decode_memWrite_push]

end Sys2Proof.Machine
end

section
/-! SUPPORT. The `CHECKSUM` command on fields in range and out of range (spec/40_checksum.md R104), and the arithmetic laws
of the checksum: the modular sum byte by byte (R102), in any order (R103). Settles O27 and O38. -/

namespace Sys2Proof.Machine

/-! ## The command -/

/-- `CHECKSUM` on fields in range writes their sum and succeeds (R104, the `else` branch). -/
theorem exec_checksum_ok {s : State} (h : fieldsOk s.block.fieldIn) :
    exec .checksum s = .next (s.withBlock (s.block.setCkResult (fieldSum s.block.fieldIn)).succeed) := by
  rw [exec_eq, blockAfter_checksum_ok h]
  rfl

/-- `CHECKSUM` on a field out of range raises `OUT_OF_RANGE` at the least such field (R104, the `raise` branch). -/
theorem exec_checksum_bad {s : State} {k : Fin 9} (h : firstBadField s.block.fieldIn k) :
    exec .checksum s = .next (s.withBlock (s.block.raiseOutOfRange k)) := by
  rw [exec_eq, blockAfter_checksum_bad h]
  rfl

/-- Settles O27: the two outcomes of the command, by whether some field is out of range. -/
theorem checksumCommand : Obligations.ChecksumCommand :=
  ⟨by decide, fun _ ok => exec_checksum_ok ok, fun _ _ bad => exec_checksum_bad bad⟩

/-! ## The arithmetic laws -/

/-- Reducing modulo 256 after every byte gives what one reduction of the unbounded sum gives (R102), from any
accumulator. -/
theorem foldl_add_eq_ofNat_sum (bs : List Byte) (acc : Byte) :
    bs.foldl (· + ·) acc = acc + BitVec.ofNat 8 (bs.map BitVec.toNat).sum := by
  induction bs generalizing acc with
  | nil => simp
  | cons b bs ih =>
    calc (b :: bs).foldl (· + ·) acc
      _ = acc + b + BitVec.ofNat 8 (bs.map BitVec.toNat).sum := ih (acc + b)
      _ = acc + BitVec.ofNat 8 ((b :: bs).map BitVec.toNat).sum := by simp [BitVec.ofNat_add, BitVec.add_assoc]

/-- `acc <- 0; for each b: acc <- (acc + b) mod 256` computes the checksum (R102). -/
theorem checksum_eq_foldl (bs : Vector Byte 9) : checksum bs = bs.toList.foldl (· + ·) 0#8 := by
  rw [foldl_add_eq_ofNat_sum, BitVec.zero_add, checksum]

/-- The checksum does not depend on the order of the bytes (R103). -/
theorem checksum_eq_of_perm {as bs : Vector Byte 9} (p : as.toList.Perm bs.toList) : checksum as = checksum bs :=
  congrArg (BitVec.ofNat 8) (p.map BitVec.toNat).sum_eq

/-- Settles O38: the sum by definition, byte by byte by induction over the bytes, and unchanged by a permutation because
addition of natural numbers is commutative. -/
theorem checksumLaws : Obligations.ChecksumLaws :=
  ⟨checksum_toNat, checksum_eq_foldl, fun _ _ p => checksum_eq_of_perm p⟩

end Sys2Proof.Machine
end

section
/-! SUPPORT. The codec functions on integers and on byte strings (spec/41_frame_codec.md R121 to R126), the commands
`ENCODE` and `DECODE` (R128, R129), and the loopback on the registers (R130). Settles O28, O29, O39, O40 and O42. -/

namespace Sys2Proof.Machine

/-! ## Encode and Decode as functions -/

/-- The flag that Decode gives, as the sum of R72 compared with the received checksum. -/
theorem validFrame_eq_spanSum (f : FrameBytes) : validFrame f = (spanSum f == f[9]) := by
  rw [validFrame, checksum_ckSpan]

/-- An input in range is the value of its byte in the frame (R121, R122). -/
theorem packFrame_intBytes_toNat {v : Vector Int 9} {i : Fin 9} (h : 0 ≤ v[i] ∧ v[i] ≤ 255) :
    ((packFrame (intBytes v))[i.val].toNat : Int) = v[i] := by
  obtain ⟨least, greatest⟩ := h
  rw [packFrame_span _ _ i.isLt, intBytes_getElem, BitVec.toNat_ofInt]
  simp only [Fin.getElem_fin] at least greatest ⊢
  omega

/-- The last byte of an encoded frame is the sum of the inputs modulo 256 (R123). -/
theorem packFrame_intBytes_check (v : Vector Int 9) :
    ((packFrame (intBytes v))[9].toNat : Int) =
      (v[0] + v[1] + v[2] + v[3] + v[4] + v[5] + v[6] + v[7] + v[8]) % 256 := by
  rw [packFrame_check, checksum_ofInt, BitVec.toNat_ofInt]
  omega

/-- Settles O39: the inputs are in range or not; in range, the frame's bytes are the inputs and their sum. -/
theorem encodeFunction : Obligations.EncodeFunction := fun v =>
  ⟨encodeFrame_error, fun inRange => ⟨packFrame (intBytes v), encodeFrame_ok inRange,
    fun i => packFrame_intBytes_toNat (inRange i), packFrame_intBytes_check v⟩⟩

/-- Settles O40: the length decides whether Decode fails; the flag is the comparison of R105. -/
theorem decodeFunction : Obligations.DecodeFunction := by
  refine ⟨fun _ short => decodeFrame_short short, fun b => ?_⟩
  rw [decodeFrame_toList, validFrame_eq_spanSum]
  rfl

/-- Encode succeeds on inputs in range only, and then packs them (R121, R122). -/
theorem encodeFrame_eq_ok {v : Vector Int 9} {f : FrameBytes} (h : encodeFrame v = .ok f) :
    (∀ i : Fin 9, 0 ≤ v[i] ∧ v[i] ≤ 255) ∧ f = packFrame (intBytes v) := by
  by_cases inRange : ∀ i : Fin 9, 0 ≤ v[i] ∧ v[i] ≤ 255
  · rw [encodeFrame_ok inRange] at h
    exact ⟨inRange, (Except.ok.inj h).symm⟩
  · obtain ⟨i, out⟩ := not_forall.1 inRange
    rw [encodeFrame_error ⟨i, by omega⟩] at h
    cases h

/-! ## The commands -/

/-- `ENCODE` on fields in range loads their packed frame and succeeds (R128). -/
theorem exec_encode_ok {s : State} (h : fieldsOk s.block.fieldIn) :
    exec .encode s = .next (s.withBlock (s.block.loadTx (packFrame (fieldBytes s.block.fieldIn))).succeed) := by
  rw [exec_eq, blockAfter_encode_ok h]
  rfl

/-- `ENCODE` on a field out of range invalidates `TX` and raises `OUT_OF_RANGE` at the least such field (R128). -/
theorem exec_encode_bad {s : State} {k : Fin 9} (h : firstBadField s.block.fieldIn k) :
    exec .encode s = .next (s.withBlock (s.block.invalidateTx.raiseOutOfRange k)) := by
  rw [exec_eq, blockAfter_encode_bad h]
  rfl

/-- `DECODE` of ten bytes empties the buffer and loads them as the decoded frame (R129). -/
theorem exec_decode_ok {s : State} (h : s.block.rxCount = 10#8) :
    exec .decode s = .next (s.withBlock (s.block.emptyRx.loadDec s.block.rxbuf).succeed) := by
  rw [exec_eq, blockAfter_decode_ok h]
  rfl

/-- `DECODE` of any other count empties the buffer and raises `SHORT_FRAME` (R129). -/
theorem exec_decode_bad {s : State} (h : s.block.rxCount ≠ 10#8) :
    exec .decode s = .next (s.withBlock s.block.emptyRx.raiseShortFrame) := by
  rw [exec_eq, blockAfter_decode_bad h]
  rfl

/-- The command's decoded frame, with the flag and the recomputed checksum as the sum of R72. -/
theorem Block.loadDec_eq_spanSum (b : Block) (f : FrameBytes) :
    b.loadDec f = { b with dec := f, decCkCalc := spanSum f, ckValid := spanSum f == f[9], decValid := true } := by
  rw [Block.loadDec, checksum_ckSpan, validFrame_eq_spanSum]

/-- A packed frame holds the low byte of each field at the field's position (R128). -/
theorem packFrame_fieldBytes_getElem (f : FieldValues) (i : Fin 9) :
    (packFrame (fieldBytes f))[i.val] = BitVec.ofInt 8 f[i].toInt := by
  rw [packFrame_span _ _ i.isLt, fieldBytes_getElem, lowByte_eq_ofInt, Fin.getElem_fin]

/-- Settles O28: the two outcomes of the command; on success its frame is the one Encode gives. -/
theorem encodeCommand : Obligations.EncodeCommand := by
  refine ⟨by decide, fun s ok => ⟨packFrame (fieldBytes s.block.fieldIn), exec_encode_ok ok,
    packFrame_fieldBytes_getElem _, ?check, encodeFrame_fields ok⟩, fun _ _ bad => exec_encode_bad bad⟩
  case check => rw [packFrame_check, checksum_fieldBytes]

/-- Settles O29: the two outcomes of the command; on success its frame and flag are those Decode gives. (Its name is
qualified so that the decoder's `decodeCommand` is not hidden.) -/
theorem FrameCodec.decodeCommand : Obligations.DecodeCommand := by
  refine ⟨by decide, fun s ten => ⟨?frame, ?function⟩, fun _ other => exec_decode_bad other⟩
  case frame => rw [exec_decode_ok ten, Block.loadDec_eq_spanSum]; rfl
  case function => rw [decodeFrame_toList, validFrame_eq_spanSum]

/-! ## The loopback (R130) -/

/-- With reset released, a transaction whose instruction returns no value changes the block alone. -/
theorem txnNext_of_decode {t : TxnWord} {i : Instr} {s : State} (released : s.resetIn = false) (h : decode t = i)
    (silent : dataAfter i s.block s.readData = s.readData) : txnNext t s = s.withBlock (blockAfter i s.block) := by
  rw [txnNext_released released, h, silent]
  rfl

/-- `ENCODE` and `RX_CLEAR`, on fields in range: the packed frame stands in `TX`, the buffer is empty. -/
theorem busSequence_encode_rxClear {s : State} (released : s.resetIn = false) (ok : fieldsOk s.block.fieldIn) :
    busSequence [0x1000001#25, 0x1000004#25] s =
      .next (s.withBlock (s.block.loadTx (packFrame (fieldBytes s.block.fieldIn))).succeed.emptyRx.succeed) := by
  rw [busSequence_cons, txnNext_of_decode (i := .encode) released (by decide) rfl, blockAfter_encode_ok ok,
    busSequence_cons, txnNext_of_decode (i := .rxClear) ?stillReleased (by decide) rfl, busSequence_nil]
  · rfl
  case stillReleased => exact released

/-- Ten pushes into an empty buffer and `DECODE`: the ten bytes become the decoded frame. -/
theorem busSequence_push_decode {s : State} (f : FrameBytes) (released : s.resetIn = false)
    (empty : s.block.rxCount = 0#8) :
    busSequence (f.toList.map (fun b => (0x103#9 ++ 0x00#8 ++ b : TxnWord)) ++ [0x1000002#25]) s =
      .next (s.withBlock ((f.toList.foldl Block.pushByte s.block).emptyRx.loadDec f).succeed) := by
  have start : s.block.rxCount.toNat = 0 := by rw [empty]; rfl
  have ten : (f.toList.foldl Block.pushByte s.block).rxCount = 10#8 := by
    rw [rxCount_ten, foldl_pushByte_rxCount, start, Vector.length_toList]
    decide
  have bytes : (f.toList.foldl Block.pushByte s.block).rxbuf = f :=
    Vector.toList_inj.1 (foldl_pushByte_ten start (Vector.length_toList ..))
  rw [busSequence_append, busSequence_pushes _ released, andThen_next, busSequence_cons,
    txnNext_of_decode (i := .decode) ?stillReleased (by decide) rfl, State.withBlock_block, blockAfter_decode_ok ten,
    bytes, busSequence_nil]
  · rfl
  case stillReleased => exact released

/-- Settles O42: as functions, an encoded frame is packed and so valid; on the registers, `ENCODE` and `RX_CLEAR` leave
a packed frame and an empty buffer, from which ten pushes and `DECODE` load that frame. -/
theorem loopbackRoundTrip : Obligations.LoopbackRoundTrip := by
  refine ⟨fun v f encoded => ?functions, fun s released ok => ?registers⟩
  case functions =>
    obtain ⟨inRange, rfl⟩ := encodeFrame_eq_ok encoded
    refine ⟨?_, fun i => packFrame_intBytes_toNat (inRange i)⟩
    rw [decodeFrame_toList, validFrame_packFrame]
  case registers =>
    refine ⟨_, _, busSequence_encode_rxClear released ok, busSequence_push_decode _ released rfl, rfl, ?_, rfl, rfl⟩
    exact validFrame_packFrame _

end Sys2Proof.Machine
end

section
/-! SUPPORT. The bus and buffer operations (spec/42_bus_and_buffer.md R160 to R166): what a read returns by register,
what a write stores, appends, records or ignores. Settles O17, O21, O22, O23, O24, O25 and O26. -/

namespace Sys2Proof.Machine

/-! ## Reading a register by its address (R165) -/

/-- The register map holds every register at the register's own address (R51). -/
theorem ofAddr_addr (r : Reg) : Reg.ofAddr r.addr = some r := by
  cases r with
  | cmd | status | rxCount | rxData | ckResult | decCkCalc => rfl
  | fieldIn i => fin_cases i <;> rfl
  | tx j | dec j | rxbuf j => fin_cases j <;> rfl

theorem readAddr_addr (b : Block) (r : Reg) : b.readAddr r.addr = b.readReg r := by
  rw [Block.readAddr, ofAddr_addr]

/-- A read of an address whose value is known returns that value (R165). -/
theorem exec_rd_of_readAddr {a : Addr} {ign v : Word} {s : State} (h : s.block.readAddr a = v) :
    exec (.rd a ign) s = .next { s with readData := some v } := by
  rw [exec_rd, h]

theorem tx_addr_toNat (j : Fin 10) : (Reg.tx j).addr.toNat = 0x20 + j.val := by
  simp only [Reg.addr, BitVec.toNat_ofNat]
  omega

theorem dec_addr_toNat (j : Fin 10) : (Reg.dec j).addr.toNat = 0x30 + j.val := by
  simp only [Reg.addr, BitVec.toNat_ofNat]
  omega

theorem rxbuf_addr_toNat (k : Fin 10) : (Reg.rxbuf k).addr.toNat = 0x40 + k.val := by
  simp only [Reg.addr, BitVec.toNat_ofNat]
  omega

/-- Settles O17: the returned value is `readAddr`, at a register's address the register's value; a byte register
is zero-extended. -/
theorem readReturnsRegister : Obligations.ReadReturnsRegister := by
  intro a ign s
  have named (r : Reg) (h : a = r.addr) : s.block.readAddr a = s.block.readReg r := by
    rw [h, readAddr_addr]
  have byte (r : Reg) (x : Byte) (holds : s.block.readReg r = zext16 x) (h : a = r.addr) :
      s.block.readAddr a = 0x00#8 ++ x := by
    rw [named r h, holds, zext16_eq_append]
  have numbered {r : Reg} {n : Nat} (at_n : r.addr.toNat = n) (h : a.toNat = n) : a = r.addr :=
    BitVec.eq_of_toNat_eq (h.trans at_n.symm)
  refine ⟨s.block.readAddr a, ?decodes, exec_rd a ign s, named .status, byte .rxCount _ rfl, byte .ckResult _ rfl,
    byte .decCkCalc _ rfl, fun i h => named _ (numbered (fieldIn_addr_toNat i) h),
    fun j h => byte (.tx j) _ rfl (numbered (tx_addr_toNat j) h),
    fun j h => byte (.dec j) _ rfl (numbered (dec_addr_toNat j) h),
    fun k h => byte (.rxbuf k) _ rfl (numbered (rxbuf_addr_toNat k) h), ?zero⟩
  case decodes => rw [decode_makeTxn, if_neg Bool.false_ne_true]
  case zero =>
    rintro (cmd | rxData | unmapped)
    · exact named .cmd cmd
    · exact named .rxData rxData
    · exact readAddr_unmapped s.block unmapped

/-! ## Field writes (R164) -/

theorem exec_fieldWrite (i : Fin 9) (v : Word) (s : State) :
    exec (fieldWrite i v) s = .next (s.withBlock (s.block.setField i v)) := by
  rw [exec_eq, blockAfter_fieldWrite, dataAfter_fieldWrite]
  rfl

/-- A field register reads back what was written to it. -/
theorem readAddr_setField (b : Block) (i : Fin 9) (v : Word) :
    (b.setField i v).readAddr (Reg.fieldIn i).addr = v := by
  rw [readAddr_addr]
  exact Vector.getElem_set_self i.isLt

/-- Settles O22: the word is the write of field `i`, all nine writes are `setField`, and the field reads back. -/
theorem fieldWriteStoresWord : Obligations.FieldWriteStoresWord := by
  refine fun i v s => ⟨?decodes, exec_fieldWrite i v s, exec_rd_of_readAddr (readAddr_setField s.block i v)⟩
  case decodes => rw [← memWrite_field_eq, decode_memWrite_field]

/-! ## Writes that are ignored (R166) -/

/-- Settles O21: the three ways to be writable are the three the hypotheses exclude. -/
theorem ignoredWriteHasNoEffect : Obligations.IgnoredWriteHasNoEffect := by
  refine ⟨fun a d notCmd notRxData notField => ?decodes, exec_wrIgnored⟩
  have notWritable : writableAddr a = false := by
    rw [← Bool.not_eq_true, writableAddr_iff]
    rintro (cmd | rxData | field)
    exacts [notCmd cmd, notRxData rxData, notField field]
  rw [decode_makeTxn, if_pos rfl, decodeWrite_of_not_writable notWritable]

/-! ## Commands that only record, and `RX_CLEAR` (R160 to R162) -/

theorem exec_nop (s : State) : exec .nop s = .next (s.withBlock s.block.succeed) :=
  exec_eq .nop s

theorem exec_rxClear (s : State) : exec .rxClear s = .next (s.withBlock s.block.emptyRx.succeed) :=
  exec_eq .rxClear s

theorem exec_cmdIllegal (rsvd opc : Byte) (s : State) :
    exec (.cmdIllegal rsvd opc) s = .next (s.withBlock s.block.raiseIllegalCommand) :=
  exec_eq (.cmdIllegal rsvd opc) s

/-- A command word with a reserved bit set, or an operation code above 4, is illegal (R162). -/
theorem decodeCommand_illegal {d : Word} (h : highByte d ≠ 0#8 ∨ 5 ≤ (lowByte d).toNat) :
    decodeCommand d = .cmdIllegal (highByte d) (lowByte d) := by
  obtain reserved | above := h
  · exact decodeCommand_of_rsvd_ne_zero reserved
  · exact decodeCommand_of_opc_ge_five above

/-- Settles O25: either cause makes the command word illegal, and an illegal command is `raiseIllegalCommand`. -/
theorem illegalCommandRecorded : Obligations.IllegalCommandRecorded := by
  refine ⟨fun d illegal => ?decodes, exec_cmdIllegal⟩
  rw [decode_makeTxn, if_pos rfl, decodeWrite_cmd]
  exact decodeCommand_illegal illegal

/-- Settles O23: the command word 0 is `NOP`, whose only update is `succeed`. -/
theorem nopRecordsSuccess : Obligations.NopRecordsSuccess :=
  ⟨by decide, exec_nop⟩

/-- Settles O24: the updates are `emptyRx` and `succeed`; with a count of zero both computed flags read 0. -/
theorem rxClearEmptiesBuffer : Obligations.RxClearEmptiesBuffer :=
  ⟨by decide, fun s => ⟨_, exec_rxClear s, rfl, Block.status_rxCount_ten _, Block.status_rxCount_above_ten _⟩⟩

/-! ## `RX_PUSH` (R163) -/

theorem exec_rxPush (ign x : Byte) (s : State) :
    exec (.rxPush ign x) s = .next (s.withBlock (s.block.pushByte x)) :=
  exec_eq (.rxPush ign x) s

/-- The eleventh and later bytes are dropped (R163). -/
theorem pushByte_rxbuf_full {b : Block} (x : Byte) (h : 10 ≤ b.rxCount.toNat) : (b.pushByte x).rxbuf = b.rxbuf := by
  rw [Block.pushByte_rxbuf, if_neg (by omega)]

theorem nextRxCount_toNat_of_lt {n : Byte} (h : n.toNat < 255) : (nextRxCount n).toNat = n.toNat + 1 := by
  rw [nextRxCount_toNat, if_pos h]

/-- The count stays at 255 (R26). -/
theorem nextRxCount_saturated {n : Byte} (h : n.toNat = 255) : nextRxCount n = n :=
  if_neg (by omega)

/-- `RX_EXACT` after a push: it was the tenth. -/
theorem status_rxExact_pushByte (b : Block) (x : Byte) :
    (b.pushByte x).status.getLsbD 6 = decide (b.rxCount.toNat = 9) := by
  rw [Block.status_rxCount_ten, Block.pushByte_rxCount, nextRxCount_toNat, decide_eq_decide]
  split <;> omega

/-- `RX_OVER` after a push: it was the eleventh or a later one. -/
theorem status_rxOver_pushByte (b : Block) (x : Byte) :
    (b.pushByte x).status.getLsbD 7 = decide (10 ≤ b.rxCount.toNat) := by
  rw [Block.status_rxCount_above_ten, Block.pushByte_rxCount, nextRxCount_toNat, decide_eq_decide]
  split <;> omega

/-- Settles O26: a push is `pushByte`, by the laws of its buffer, its count and the two flags computed from it. -/
theorem rxPushAppendsByte : Obligations.RxPushAppendsByte :=
  ⟨decode_pushWord, fun ign x s => ⟨_, exec_rxPush ign x s, pushByte_rxbuf x, pushByte_rxbuf_full x,
    nextRxCount_toNat_of_lt, nextRxCount_saturated, status_rxExact_pushByte s.block x,
    status_rxOver_pushByte s.block x, rfl⟩⟩

end Sys2Proof.Machine
end

section
/-! SUPPORT. What a command can do, said once, and from it the outcome that each command records and the cause of each
error code (spec/60_exceptions.md R222 to R225). Settles O30 to O33. -/

namespace Sys2Proof.Machine

/-! ## The outcomes of a command -/

/-- The state after a command, one constructor per command and outcome: in every one `ERR` and `ERR_INDEX` are recorded
last. -/
inductive CommandOutcome (s : State) : Instr → State → Prop where
  | nop : CommandOutcome s .nop (s.withBlock s.block.succeed)
  | encoded (ok : fieldsOk s.block.fieldIn) :
    CommandOutcome s .encode (s.withBlock (s.block.loadTx (packFrame (fieldBytes s.block.fieldIn))).succeed)
  | encodeOutOfRange {k : Fin 9} (bad : firstBadField s.block.fieldIn k) :
    CommandOutcome s .encode (s.withBlock (s.block.invalidateTx.raiseOutOfRange k))
  | decoded (ten : s.block.rxCount = 10#8) :
    CommandOutcome s .decode (s.withBlock (s.block.emptyRx.loadDec s.block.rxbuf).succeed)
  | decodeShortFrame (other : s.block.rxCount ≠ 10#8) :
    CommandOutcome s .decode (s.withBlock s.block.emptyRx.raiseShortFrame)
  | checksummed (ok : fieldsOk s.block.fieldIn) :
    CommandOutcome s .checksum (s.withBlock (s.block.setCkResult (fieldSum s.block.fieldIn)).succeed)
  | checksumOutOfRange {k : Fin 9} (bad : firstBadField s.block.fieldIn k) :
    CommandOutcome s .checksum (s.withBlock (s.block.raiseOutOfRange k))
  | rxCleared : CommandOutcome s .rxClear (s.withBlock s.block.emptyRx.succeed)
  | illegal (rsvd opc : Byte) : CommandOutcome s (.cmdIllegal rsvd opc) (s.withBlock s.block.raiseIllegalCommand)

/-- Two answers of one instruction in one state are one state. -/
theorem exec_next_unique {i : Instr} {s t u : State} (ht : exec i s = .next t) (hu : exec i s = .next u) : t = u :=
  Host.Outcome.next.inj (ht.symm.trans hu)

/-- A command has one of the outcomes. -/
theorem commandOutcome_of_exec {i : Instr} {s t : State} (h : exec i s = .next t) (cmd : isCommand i) :
    CommandOutcome s i t := by
  obtain rfl | rfl | rfl | rfl | rfl | ⟨rsvd, opc, rfl⟩ := cmd
  · exact exec_next_unique (exec_nop s) h ▸ .nop
  · obtain ok | ⟨k, bad⟩ := fieldsOk_or_firstBad s.block.fieldIn
    · exact exec_next_unique (exec_encode_ok ok) h ▸ .encoded ok
    · exact exec_next_unique (exec_encode_bad bad) h ▸ .encodeOutOfRange bad
  · by_cases ten : s.block.rxCount = 10#8
    · exact exec_next_unique (exec_decode_ok ten) h ▸ .decoded ten
    · exact exec_next_unique (exec_decode_bad ten) h ▸ .decodeShortFrame ten
  · obtain ok | ⟨k, bad⟩ := fieldsOk_or_firstBad s.block.fieldIn
    · exact exec_next_unique (exec_checksum_ok ok) h ▸ .checksummed ok
    · exact exec_next_unique (exec_checksum_bad bad) h ▸ .checksumOutOfRange bad
  · exact exec_next_unique (exec_rxClear s) h ▸ .rxCleared
  · exact exec_next_unique (exec_cmdIllegal rsvd opc s) h ▸ .illegal rsvd opc

/-! ## The recorded outcome (R222) -/

/-- An instruction whose answer ends in `record` leaves that error and that index. -/
theorem recorded_of_exec {i : Instr} {s t : State} {b : Block} {e : ErrCode} {k : BitVec 4}
    (recording : exec i s = .next (s.withBlock (b.record e k))) (h : exec i s = .next t) :
    t.block.err = e ∧ t.block.errIndex = k := by
  rw [exec_next_unique h recording]
  exact ⟨rfl, rfl⟩

/-- An instruction whose answer ends in `raiseOutOfRange` leaves that error and the field's index. -/
theorem outOfRange_of_exec {i : Instr} {s t : State} {b : Block} {k : Fin 9}
    (raising : exec i s = .next (s.withBlock (b.raiseOutOfRange k))) (h : exec i s = .next t) :
    t.block.err = .outOfRange ∧ t.block.errIndex.toNat = k.val := by
  obtain ⟨err, index⟩ := recorded_of_exec raising h
  exact ⟨err, by rw [index, errIndexOf_toNat]⟩

/-- An instruction that is no command keeps the recorded outcome. -/
theorem blockAfter_record_of_not_command {i : Instr} (other : ¬ isCommand i) (b : Block) :
    (blockAfter i b).err = b.err ∧ (blockAfter i b).errIndex = b.errIndex := by
  cases i with
  | nop | encode | decode | checksum | rxClear | cmdIllegal => simp [isCommand] at other
  | _ => exact ⟨rfl, rfl⟩

/-- Settles O30: each command's equation, by its outcome, ends in the record that the rule names; no other instruction
writes the record. -/
theorem commandsRecordOutcome : Obligations.CommandsRecordOutcome := by
  intro i s t h
  refine ⟨fun other => ?other, ?alwaysSucceeds, ?range, ?decodes, ?illegal⟩
  case other =>
    rw [exec_next h]
    exact blockAfter_record_of_not_command other s.block
  case alwaysSucceeds =>
    rintro (rfl | rfl)
    · exact recorded_of_exec (exec_nop s) h
    · exact recorded_of_exec (exec_rxClear s) h
  case range =>
    rintro (rfl | rfl)
    · exact ⟨fun ok => recorded_of_exec (exec_encode_ok ok) h,
        fun k bad => outOfRange_of_exec (exec_encode_bad bad) h⟩
    · exact ⟨fun ok => recorded_of_exec (exec_checksum_ok ok) h,
        fun k bad => outOfRange_of_exec (exec_checksum_bad bad) h⟩
  case decodes =>
    rintro rfl
    exact ⟨fun ten => recorded_of_exec (exec_decode_ok ten) h,
      fun other => recorded_of_exec (exec_decode_bad other) h⟩
  case illegal =>
    rintro rsvd opc rfl
    exact recorded_of_exec (exec_cmdIllegal rsvd opc s) h

/-! ## The cause of each error (R223 to R225) -/

/-- Settles O31: among the outcomes, the two that raise `OUT_OF_RANGE` have a field out of range, and the other two of
the same commands have none. -/
theorem outOfRangeCause : Obligations.OutOfRangeCause := by
  intro i s t h cmd
  cases commandOutcome_of_exec h cmd with
  | encodeOutOfRange bad => exact ⟨⟨fun _ => ⟨.inl rfl, _, bad.1⟩, fun _ => rfl⟩, fun _ => rfl⟩
  | checksumOutOfRange bad => exact ⟨⟨fun _ => ⟨.inr rfl, _, bad.1⟩, fun _ => rfl⟩, fun _ => rfl⟩
  | encoded ok | checksummed ok => exact ⟨⟨nofun, fun ⟨_, k, bad⟩ => absurd (ok k) bad⟩, nofun⟩
  | nop | rxCleared | decoded | decodeShortFrame | illegal =>
    exact ⟨⟨nofun, fun ⟨which, _⟩ => which.elim nofun nofun⟩, nofun⟩

/-- Settles O32: among the outcomes, the one that raises `SHORT_FRAME` has a count other than ten, and the other one of
`DECODE` has ten. -/
theorem shortFrameCause : Obligations.ShortFrameCause := by
  intro i s t h cmd
  cases commandOutcome_of_exec h cmd with
  | decodeShortFrame other => exact ⟨⟨fun _ => ⟨rfl, other⟩, fun _ => rfl⟩, fun _ => rfl⟩
  | decoded ten => exact ⟨⟨nofun, fun ⟨_, other⟩ => absurd ten other⟩, nofun⟩
  | nop | rxCleared | encoded | checksummed | encodeOutOfRange | checksumOutOfRange | illegal =>
    exact ⟨⟨nofun, nofun⟩, nofun⟩

/-- A command records `ILLEGAL_COMMAND` exactly when it is an illegal one. -/
theorem err_illegalCommand_iff {i : Instr} {s t : State} (h : exec i s = .next t) (cmd : isCommand i) :
    t.block.err = .illegalCommand ↔ ∃ rsvd opc, i = .cmdIllegal rsvd opc := by
  cases commandOutcome_of_exec h cmd with
  | illegal rsvd opc => exact ⟨fun _ => ⟨rsvd, opc, rfl⟩, fun _ => rfl⟩
  | _ => exact ⟨nofun, nofun⟩

/-- Every command word decodes to a command (R78). -/
theorem isCommand_decodeCommand (d : Word) : isCommand (decodeCommand d) := by
  simp only [decodeCommand]
  split_ifs <;> simp [isCommand]

/-- A command word above 4 has a reserved bit set or an operation code above 4 (R77). -/
theorem fields_illegal_of_word_gt_four {d : Word} (above : 4 < d.toNat) :
    highByte d ≠ 0#8 ∨ 5 ≤ (lowByte d).toNat := by
  by_contra legal
  obtain ⟨reserved, small⟩ := not_or.1 legal
  have fields : d = makeCommand 0#8 (lowByte d) := by rw [← not_not.1 reserved, makeCommand_fields]
  have value : d.toNat = (lowByte d).toNat := by
    conv_lhs => rw [fields, makeCommand, BitVec.toNat_append]
    simp
  omega

/-- The command words 0 to 4 are legal (R78). -/
theorem decodeCommand_legal {d : Word} (small : d.toNat ≤ 4) (rsvd opc : Byte) :
    decodeCommand d ≠ .cmdIllegal rsvd opc := by
  have words : d = 0#16 ∨ d = 1#16 ∨ d = 2#16 ∨ d = 3#16 ∨ d = 4#16 := by bv_omega
  obtain rfl | rfl | rfl | rfl | rfl := words <;> nofun

/-- Settles O33: a word above 4 decodes to an illegal command, which only records; one of 0 to 4 to a legal command,
which never records `ILLEGAL_COMMAND`. -/
theorem illegalCommandCause : Obligations.IllegalCommandCause := by
  intro d s t h
  rw [decode_makeTxn, if_pos rfl, decodeWrite_cmd] at h
  have illegal (above : 4 < d.toNat) : decodeCommand d = .cmdIllegal (highByte d) (lowByte d) :=
    decodeCommand_illegal (fields_illegal_of_word_gt_four above)
  refine ⟨?cause, fun above => ?frame⟩
  case cause =>
    rw [err_illegalCommand_iff h (isCommand_decodeCommand d)]
    refine ⟨fun ⟨rsvd, opc, decodes⟩ => ?_, fun above => ⟨_, _, illegal above⟩⟩
    by_contra small
    exact decodeCommand_legal (by omega) rsvd opc decodes
  case frame =>
    rw [illegal above] at h
    exact exec_next_unique h (exec_cmdIllegal _ _ s)

end Sys2Proof.Machine
end

section
/-! SUPPORT. The reset input (spec/70_reset_and_hazards.md R250): a transaction under reset by its direction, and why no
instruction is a software reset. Settles O12. -/

namespace Sys2Proof.Machine

/-! ## Transactions under reset -/

theorem underReset_command {i : Instr} (cmd : isCommand i) (s : State) : s.underReset i = s := by
  obtain rfl | rfl | rfl | rfl | rfl | ⟨_, _, rfl⟩ := cmd <;> rfl

theorem underReset_fieldWrite (k : Fin 9) (v : Word) (s : State) : s.underReset (fieldWrite k v) = s := by
  fin_cases k <;> rfl

/-- A write selects a command, a push, a field write or an ignored write (R76, cases 2 to 5), and none of them acts under
reset. -/
theorem underReset_decodeWrite (a : Addr) (d : Word) (s : State) : s.underReset (decodeWrite a d) = s := by
  cases writable : writableAddr a with
  | false => rw [decodeWrite_of_not_writable writable]; rfl
  | true =>
    obtain rfl | rfl | fieldRange := (writableAddr_iff a).1 writable
    · rw [decodeWrite_cmd, underReset_command (isCommand_decodeCommand d)]
    · rw [decodeWrite_rxData]; rfl
    · have field : a = (Reg.fieldIn ⟨a.toNat - 0x10, by omega⟩).addr := eq_fieldIn_addr (by simp only; omega)
      rw [field, decodeWrite_field, underReset_fieldWrite]

theorem underReset_decode_of_write {t : TxnWord} (h : t.isWrite = true) (s : State) : s.underReset (decode t) = s := by
  rw [decode_of_write h, underReset_decodeWrite]

theorem underReset_decode_of_read {t : TxnWord} (h : t.isWrite = false) (s : State) :
    s.underReset (decode t) = { s with readData := some 0x0000#16 } := by
  rw [decode_of_read h]
  rfl

/-- Under reset a write does nothing and a read returns zero and does nothing else. -/
theorem busTransaction_under_reset {s : State} (asserted : s.resetIn = true) (t : TxnWord) :
    busTransaction t s = .next (if t.isWrite then s else { s with readData := some 0x0000#16 }) := by
  rw [busTransaction, if_pos asserted]
  cases direction : t.isWrite with
  | true => rw [underReset_decode_of_write direction, if_pos rfl]
  | false => rw [underReset_decode_of_read direction, if_neg Bool.false_ne_true]

/-! ## No instruction is a software reset -/

theorem resetIn_of_exec {i : Instr} {s t : State} (h : exec i s = .next t) : t.resetIn = s.resetIn := by
  rw [exec_next h]

/-- No outcome of a command writes a field register or a byte of the receive buffer. -/
theorem command_keeps_fieldIn_rxbuf {i : Instr} {s t : State} (h : exec i s = .next t) (cmd : isCommand i) :
    t.block.fieldIn = s.block.fieldIn ∧ t.block.rxbuf = s.block.rxbuf := by
  cases commandOutcome_of_exec h cmd with
  | _ => exact ⟨rfl, rfl⟩

/-- Only the nine field writes reach a field register: a command writes none, and neither does a push, an ignored write
or a read. -/
theorem fieldIn_kept_or_fieldWrite {i : Instr} {s t : State} (h : exec i s = .next t) :
    t.block.fieldIn = s.block.fieldIn ∨ ∃ k v, i = fieldWrite k v := by
  by_cases cmd : isCommand i
  · exact .inl (command_keeps_fieldIn_rxbuf h cmd).1
  rw [exec_next h]
  cases i with
  | nop | encode | decode | checksum | rxClear | cmdIllegal => simp [isCommand] at cmd
  | rxPush | wrIgnored | rd => exact .inl rfl
  | _ => exact .inr ((isFieldWrite_cases _).2 (by simp))

/-- One instruction writes at most one field register, so of two it leaves one as it was. -/
theorem one_of_two_fields_kept {i : Instr} {s t : State} (h : exec i s = .next t) {j k : Fin 9} (apart : j ≠ k) :
    t.block.fieldIn[j] = s.block.fieldIn[j] ∨ t.block.fieldIn[k] = s.block.fieldIn[k] := by
  obtain kept | ⟨m, v, rfl⟩ := fieldIn_kept_or_fieldWrite h
  · exact .inl (by rw [kept])
  have others (n : Fin 9) (other : m ≠ n) : t.block.fieldIn[n] = s.block.fieldIn[n] := by
    rw [exec_next_unique h (exec_fieldWrite m v s)]
    exact Vector.getElem_set_ne m.isLt n.isLt (Fin.val_ne_of_ne other)
  by_cases first : m = j
  · exact .inr (others k (first ▸ apart))
  · exact .inl (others j first)

/-- A block in which two field registers hold something is not the reset block after one instruction. -/
theorem block_ne_reset_of_two_fields {i : Instr} {s t : State} (h : exec i s = .next t) {j k : Fin 9} (apart : j ≠ k)
    (hj : s.block.fieldIn[j] ≠ 0#16) (hk : s.block.fieldIn[k] ≠ 0#16) : t.block ≠ Block.reset := by
  intro isReset
  have zero (n : Fin 9) : t.block.fieldIn[n] = 0#16 := by rw [isReset, Block.reset_fieldIn]
  obtain kept | kept := one_of_two_fields_kept h apart
  · exact hj (kept.symm.trans (zero j))
  · exact hk (kept.symm.trans (zero k))

/-- Settles O12: asserting reset writes the reset block and the level, under reset a transaction is decided by its
direction, one instruction writes at most one field register and a command none, and `RX_CLEAR` and `NOP` are their named
updates. -/
theorem resetInput : Obligations.ResetInput :=
  ⟨rfl, fun _ => ⟨rfl, rfl⟩, fun _ t asserted => busTransaction_under_reset asserted t,
    fun _ _ _ h => ⟨resetIn_of_exec h, command_keeps_fieldIn_rxbuf h, fun _ _ => block_ne_reset_of_two_fields h⟩,
    exec_rxClear, exec_nop⟩

end Sys2Proof.Machine
end

section
/-! SUPPORT. The encoder and the decoder are inverse to each other on the well-formed instructions (spec/30_encoding.md
R74 to R80), the decoder agrees with the priorities of the opcode table, and a table word is read as the transaction word
of its low bits. Settles O2 to O6. -/

namespace Sys2Proof.Machine

/-! ## Decoding an encoded instruction -/

/-- A command word that is not legal has a reserved bit set or an operation code above 4 (R78). -/
theorem fields_illegal_of_not_legal {rsvd opc : Byte} (h : legalCommandWord rsvd opc = false) :
    rsvd ≠ 0#8 ∨ 5 ≤ opc.toNat := by
  simp only [legalCommandWord, Bool.and_eq_false_iff, beq_eq_false_iff_ne, decide_eq_false_iff_not] at h
  exact h.imp_right (by omega)

theorem decode_encode_cmdIllegal {rsvd opc : Byte} (h : legalCommandWord rsvd opc = false) :
    decode (encode (.cmdIllegal rsvd opc)) = .cmdIllegal rsvd opc := by
  have illegal := decodeCommand_illegal (d := makeCommand rsvd opc)
    (by rw [makeCommand_high, makeCommand_low]; exact fields_illegal_of_not_legal h)
  rw [makeCommand_high, makeCommand_low] at illegal
  rw [encode, decode_makeTxn, if_pos rfl, decodeWrite_cmd, illegal]

theorem decode_encode_rxPush (ign b : Byte) : decode (encode (.rxPush ign b)) = .rxPush ign b := by
  rw [encode, decode_makeTxn, if_pos rfl, decodeWrite_rxData, makeCommand_high, makeCommand_low]

theorem decode_encode_wrIgnored {a : Addr} (h : writableAddr a = false) (d : Word) :
    decode (encode (.wrIgnored a d)) = .wrIgnored a d := by
  rw [encode, decode_makeTxn, if_pos rfl, decodeWrite_of_not_writable h]

/-- The encoding of a field write is the bus write to the field's address (R164). -/
theorem encode_fieldWrite (i : Fin 9) (v : Word) : encode (fieldWrite i v) = memWrite (Reg.fieldIn i).addr v := by
  fin_cases i <;> rfl

theorem decode_encode_fieldWrite (i : Fin 9) (v : Word) : decode (encode (fieldWrite i v)) = fieldWrite i v := by
  rw [encode_fieldWrite, decode_memWrite_field]

/-- Settles O2, by cases on the instruction: well-formedness is what keeps an illegal command from being a legal one and
an ignored write from reaching a writable address. -/
theorem encodeThenDecodeIsIdentity : Obligations.EncodeThenDecodeIsIdentity := by
  intro i wf
  cases i with
  | nop | encode | decode | checksum | rxClear => decide
  | cmdIllegal rsvd opc => exact decode_encode_cmdIllegal (by simpa [Instr.wellFormed] using wf)
  | rxPush ign b => exact decode_encode_rxPush ign b
  | wrFiStart v => exact decode_encode_fieldWrite 0 v
  | wrFiDev v => exact decode_encode_fieldWrite 1 v
  | wrFiCmd v => exact decode_encode_fieldWrite 2 v
  | wrFiPrm v => exact decode_encode_fieldWrite 3 v
  | wrFiErr v => exact decode_encode_fieldWrite 4 v
  | wrFiD3 v => exact decode_encode_fieldWrite 5 v
  | wrFiD2 v => exact decode_encode_fieldWrite 6 v
  | wrFiD1 v => exact decode_encode_fieldWrite 7 v
  | wrFiD0 v => exact decode_encode_fieldWrite 8 v
  | wrIgnored a d => exact decode_encode_wrIgnored (by simpa [Instr.wellFormed] using wf) d
  | rd a ign => rw [encode, decode_makeTxn, if_neg Bool.false_ne_true]

/-! ## Encoding a decoded word -/

/-- The four kinds of write (R76, cases 2 to 5). -/
theorem decodeWrite_cases (a : Addr) (d : Word) :
    (a = 0x00#8 ∧ decodeWrite a d = decodeCommand d) ∨
    (a = 0x03#8 ∧ decodeWrite a d = .rxPush (highByte d) (lowByte d)) ∨
    (∃ i : Fin 9, a = (Reg.fieldIn i).addr ∧ decodeWrite a d = fieldWrite i d) ∨
    (writableAddr a = false ∧ decodeWrite a d = .wrIgnored a d) := by
  cases writable : writableAddr a with
  | false => exact .inr (.inr (.inr ⟨rfl, decodeWrite_of_not_writable writable d⟩))
  | true =>
    obtain rfl | rfl | fieldRange := (writableAddr_iff a).1 writable
    · exact .inl ⟨rfl, decodeWrite_cmd d⟩
    · exact .inr (.inl ⟨rfl, decodeWrite_rxData d⟩)
    · have field : a = (Reg.fieldIn ⟨a.toNat - 0x10, by omega⟩).addr := eq_fieldIn_addr (by simp only; omega)
      exact .inr (.inr (.inl ⟨_, field, by rw [← decodeWrite_field, ← field]⟩))

/-- A command word decodes to one of the five commands, of which it is the word, or to an illegal command (R78). -/
theorem decodeCommand_cases (d : Word) :
    (decodeCommand d = .nop ∧ d = 0x0000#16) ∨ (decodeCommand d = .encode ∧ d = 0x0001#16) ∨
    (decodeCommand d = .decode ∧ d = 0x0002#16) ∨ (decodeCommand d = .checksum ∧ d = 0x0003#16) ∨
    (decodeCommand d = .rxClear ∧ d = 0x0004#16) ∨
    (decodeCommand d = .cmdIllegal (highByte d) (lowByte d) ∧ legalCommandWord (highByte d) (lowByte d) = false) := by
  by_cases above : 4 < d.toNat
  · have illegal := fields_illegal_of_word_gt_four above
    refine .inr (.inr (.inr (.inr (.inr ⟨decodeCommand_illegal illegal, ?_⟩))))
    simp only [legalCommandWord, Bool.and_eq_false_iff, beq_eq_false_iff_ne, decide_eq_false_iff_not]
    exact illegal.imp_right (by omega)
  · have words : d = 0#16 ∨ d = 1#16 ∨ d = 2#16 ∨ d = 3#16 ∨ d = 4#16 := by bv_omega
    obtain rfl | rfl | rfl | rfl | rfl := words <;> decide

theorem encode_decodeCommand (d : Word) : encode (decodeCommand d) = makeTxn true 0x00#8 d := by
  obtain ⟨h, rfl⟩ | ⟨h, rfl⟩ | ⟨h, rfl⟩ | ⟨h, rfl⟩ | ⟨h, rfl⟩ | ⟨h, -⟩ := decodeCommand_cases d
  case inr.inr.inr.inr.inr => rw [h, encode, makeCommand_fields]
  all_goals rw [h, encode]

theorem wellFormed_decodeCommand (d : Word) : (decodeCommand d).wellFormed = true := by
  obtain ⟨h, -⟩ | ⟨h, -⟩ | ⟨h, -⟩ | ⟨h, -⟩ | ⟨h, -⟩ | ⟨h, illegal⟩ := decodeCommand_cases d
  case inr.inr.inr.inr.inr => rw [h, Instr.wellFormed, illegal, Bool.not_false]
  all_goals rw [h, Instr.wellFormed]

theorem wellFormed_fieldWrite (i : Fin 9) (v : Word) : (fieldWrite i v).wellFormed = true := by
  fin_cases i <;> rfl

theorem encode_decodeWrite (a : Addr) (d : Word) : encode (decodeWrite a d) = makeTxn true a d := by
  obtain ⟨rfl, h⟩ | ⟨rfl, h⟩ | ⟨i, rfl, h⟩ | ⟨-, h⟩ := decodeWrite_cases a d
  · rw [h, encode_decodeCommand]
  · rw [h, encode, makeCommand_fields]
  · rw [h, encode_fieldWrite, memWrite]
  · rw [h, encode]

theorem wellFormed_decodeWrite (a : Addr) (d : Word) : (decodeWrite a d).wellFormed = true := by
  obtain ⟨-, h⟩ | ⟨-, h⟩ | ⟨i, -, h⟩ | ⟨notWritable, h⟩ := decodeWrite_cases a d
  · rw [h, wellFormed_decodeCommand]
  · rw [h, Instr.wellFormed]
  · rw [h, wellFormed_fieldWrite]
  · rw [h, Instr.wellFormed, notWritable, Bool.not_false]

theorem encode_decode (t : TxnWord) : encode (decode t) = t := by
  cases direction : t.isWrite with
  | true => rw [decode_of_write direction, encode_decodeWrite, ← direction, makeTxn_fields]
  | false => rw [decode_of_read direction, encode, ← direction, makeTxn_fields]

/-- Settles O3: a word is the encoding of what it decodes to, read or write, and each kind of write that the decoder
selects is well formed. -/
theorem decodeThenEncodeIsIdentity : Obligations.DecodeThenEncodeIsIdentity := by
  refine fun t => ⟨encode_decode t, ?wellFormed⟩
  cases direction : t.isWrite with
  | true => rw [decode_of_write direction, wellFormed_decodeWrite]
  | false => rw [decode_of_read direction, Instr.wellFormed]

/-! ## The opcode table -/

/-- Every instruction's row is in the table. -/
theorem row_mem_tableRows (i : Instr) : i.row ∈ tableRows := by
  cases i <;> simp [tableRows, Instr.row]

/-- Every row of the table is the row of an instruction. -/
theorem exists_row_of_mem {r : TableRow} (h : r ∈ tableRows) : ∃ i : Instr, i.row = r := by
  have rows : tableRows = [Instr.nop, .encode, .decode, .checksum, .rxClear, .cmdIllegal 0 0, .rxPush 0 0, .wrFiStart 0,
      .wrFiDev 0, .wrFiCmd 0, .wrFiPrm 0, .wrFiErr 0, .wrFiD3 0, .wrFiD2 0, .wrFiD1 0, .wrFiD0 0, .wrIgnored 0 0,
      .rd 0 0].map Instr.row := rfl
  obtain ⟨i, -, row⟩ := List.mem_map.1 (rows ▸ h)
  exact ⟨i, row⟩

/-- The encoding of an instruction lies in the instruction's row. -/
theorem row_matches_encode (i : Instr) : i.row.matchesWord (encode i) = true := by
  cases i with
  | nop => exact Laws.RowMatch.nop
  | encode => exact Laws.RowMatch.encode
  | decode => exact Laws.RowMatch.decode
  | checksum => exact Laws.RowMatch.checksum
  | rxClear => exact Laws.RowMatch.rxClear
  | cmdIllegal r o => exact Laws.RowMatch.cmdIllegal r o
  | rxPush g b => exact Laws.RowMatch.rxPush g b
  | wrFiStart v => exact Laws.RowMatch.wrFiStart v
  | wrFiDev v => exact Laws.RowMatch.wrFiDev v
  | wrFiCmd v => exact Laws.RowMatch.wrFiCmd v
  | wrFiPrm v => exact Laws.RowMatch.wrFiPrm v
  | wrFiErr v => exact Laws.RowMatch.wrFiErr v
  | wrFiD3 v => exact Laws.RowMatch.wrFiD3 v
  | wrFiD2 v => exact Laws.RowMatch.wrFiD2 v
  | wrFiD1 v => exact Laws.RowMatch.wrFiD1 v
  | wrFiD0 v => exact Laws.RowMatch.wrFiD0 v
  | wrIgnored a d => exact Laws.RowMatch.wrIgnored a d
  | rd a g => exact Laws.RowMatch.rd a g

theorem row_fieldWrite_priority (i : Fin 9) (v : Word) : (fieldWrite i v).row.priority = 1 := by
  fin_cases i <;> rfl

/-- A command word is in the row of illegal commands, or in one of better priority. -/
theorem row_decodeCommand (d : Word) (rsvd opc : Byte) :
    (Instr.cmdIllegal rsvd opc).row = (decodeCommand d).row ∨ (decodeCommand d).row.priority < 2 := by
  obtain ⟨h, -⟩ | ⟨h, -⟩ | ⟨h, -⟩ | ⟨h, -⟩ | ⟨h, -⟩ | ⟨h, -⟩ := decodeCommand_cases d
  case inr.inr.inr.inr.inr => exact .inl (by rw [h]; rfl)
  all_goals exact .inr (by rw [h]; decide)

/-- A write is in the row of ignored writes, or in one of better priority. -/
theorem row_decodeWrite (a : Addr) (d : Word) (a' : Addr) (d' : Word) :
    (Instr.wrIgnored a' d').row = (decodeWrite a d).row ∨ (decodeWrite a d).row.priority < 3 := by
  obtain ⟨-, h⟩ | ⟨-, h⟩ | ⟨i, -, h⟩ | ⟨-, h⟩ := decodeWrite_cases a d
  · rw [h]
    obtain illegal | better := row_decodeCommand d 0#8 0#8
    · exact .inr (by rw [← illegal]; decide)
    · exact .inr (by omega)
  · exact .inr (by rw [h]; exact (by decide : 1 < 3))
  · exact .inr (by rw [h, row_fieldWrite_priority]; decide)
  · exact .inl (by rw [h]; rfl)

/-- A word that lies in an instruction's row decodes into that row or into one of better priority. -/
theorem row_decode_of_rowHolds {i : Instr} {t : TxnWord} (h : rowHolds i t) :
    i.row = (decode t).row ∨ (decode t).row.priority < i.row.priority := by
  have write (isWrite : t.isWrite = true) {a : Addr} (addr : t.addr = a) : decode t = decodeWrite a t.data := by
    rw [decode_of_write isWrite, addr]
  cases i with
  | nop | encode | decode | checksum | rxClear => exact .inl (by rw [show t = _ from h]; decide)
  | cmdIllegal rsvd opc =>
    rw [write h.1 h.2, decodeWrite_cmd]
    exact row_decodeCommand t.data rsvd opc
  | wrIgnored a d =>
    rw [decode_of_write h]
    exact row_decodeWrite t.addr t.data a d
  | rd a ign => exact .inl (by rw [decode_of_read h]; rfl)
  | rxPush | wrFiStart | wrFiDev | wrFiCmd | wrFiPrm | wrFiErr | wrFiD3 | wrFiD2 | wrFiD1 | wrFiD0 =>
    exact .inl (by rw [write h.1 h.2]; rfl)

/-- Settles O4: the word is the encoding of the decoded instruction, so it lies in that instruction's row; any other row
it lies in is of worse priority. -/
theorem decodeSelectsTableRow : Obligations.DecodeSelectsTableRow := by
  refine fun t => ⟨row_mem_tableRows _, ?selected, fun r mem holds => ?others⟩
  case selected =>
    have row := row_matches_encode (decode t)
    rwa [encode_decode] at row
  case others =>
    obtain ⟨i, rfl⟩ := exists_row_of_mem mem
    exact row_decode_of_rowHolds ((row_matches_iff i t).1 holds)

/-- Settles O5: seven closed words, evaluated. -/
theorem sampleWordsDecode : Obligations.SampleWordsDecode := by
  unfold Obligations.SampleWordsDecode
  decide

/-! ## Table words (log entry 11) -/

theorem bytesOfNumber_length (k n : Nat) : (bytesOfNumber k n).length = k := by
  induction k generalizing n with
  | zero => rfl
  | succ k ih => rw [bytesOfNumber, List.length_cons, ih]

/-- The `k` low bytes of a number write the number modulo `256 ^ k`. -/
theorem numberOfBytes_bytesOfNumber (k n : Nat) : numberOfBytes (bytesOfNumber k n) = n % 256 ^ k := by
  induction k generalizing n with
  | zero => rw [Nat.pow_zero, Nat.mod_one, bytesOfNumber, numberOfBytes]
  | succ k ih => rw [Nat.pow_succ', Nat.mod_mul, ← ih, bytesOfNumber, numberOfBytes, BitVec.toNat_ofNat]

/-- Settles O6: the four bytes write the number itself, which then fits the 25 bits of a transaction word or not. -/
theorem tableWordIsTransactionWord : Obligations.TableWordIsTransactionWord := by
  intro w fits
  have number : numberOfBytes (bytesOfNumber 4 w) = w := by
    exact (numberOfBytes_bytesOfNumber 4 w).trans (Nat.mod_eq_of_lt fits)
  have bytes : decodeBytes (bytesOfNumber 4 w) =
      if 2 ^ 25 ≤ w then .error .bitsAboveWord else .ok (decode (BitVec.ofNat 25 w)) := by
    rw [decodeBytes, bytesOfNumber_length, number, if_neg (not_not.2 rfl)]
  rw [decodeTableWord, show (32 + 7) / 8 = 4 from rfl, bytes]
  by_cases high : 2 ^ 25 ≤ w
  · rw [if_pos high, if_neg (by omega)]
  · rw [if_neg high, if_pos (by omega)]

end Sys2Proof.Machine
end

section
/-! SUPPORT. What one step of the machine can do, said once (every step answers a next state), and the invariant that
every step keeps (spec/10_state.md sections 3 to 6, spec/43_exchange_host.md section 3). Settles O10, O11, O46, O47, O51
and O52. -/

namespace Sys2Proof.Machine

/-! ## What one step can do -/

/-- What a step can make of the block and of the level of the reset input. -/
inductive BlockMove (b : Block) (level : Bool) : Block → Bool → Prop where
  | kept : BlockMove b level b level
  | ran (i : Instr) (free : level = false) : BlockMove b level (blockAfter i b) level
  | asserted : BlockMove b level Block.reset true
  | released : BlockMove b level b false

/-- What the exchange controller can make of the host, one constructor per phase of the send sequence; `v` and `st`
stand for the value a read returned. -/
inductive HostMove (h : HostEnv) : HostEnv → Prop where
  | start {r : HostRequest} {rest : List HostRequest} (phase : h.phase = .ready) (asked : h.requests = r :: rest) :
    HostMove h ((h.setRequests rest).startRequest r)
  | load {f : FieldValues} {i : Fin 9} (phase : h.phase = .loading f i) : HostMove h (h.afterLoad f i)
  | encode (phase : h.phase = .encoding) : HostMove h (h.goto .checking)
  | check (st : Word) (phase : h.phase = .checking) : HostMove h (h.afterStatus st)
  | readTx {j : Fin 10} {got : FrameBytes} (v : Word) (phase : h.phase = .readingTx j got) :
    HostMove h (h.afterTxRead j got v)
  | clear {f : FrameBytes} (phase : h.phase = .clearing f) : HostMove h (h.goto (.writing f))
  | write {f : FrameBytes} (phase : h.phase = .writing f) : HostMove h (h.writeFrame f)
  | read (phase : h.phase = .awaiting) : HostMove h h.readResponse
  | push {b : Byte} {rest : List Byte} {len : Nat} (phase : h.phase = .pushing (b :: rest) len) :
    HostMove h (h.goto (.pushing rest len))
  | pushed {len : Nat} (phase : h.phase = .pushing [] len) : HostMove h (h.afterPushes len)
  | decode (phase : h.phase = .decoding) : HostMove h (h.goto (.readingDec 0 (Vector.replicate 10 0#8)))
  | readDec {j : Fin 10} {got : FrameBytes} (v : Word) (phase : h.phase = .readingDec j got) :
    HostMove h (h.afterDecRead j got v)
  | readFlag {f : FrameBytes} (st : Word) (phase : h.phase = .readingFlag f) : HostMove h (h.complete f st)

/-- From `s` the result `r` is a next state, in which the block made a `BlockMove` and the host a `HostMove` or none. -/
def Moves (s : State) (r : Result) : Prop :=
  ∃ t : State, r = .next t ∧ BlockMove s.block s.resetIn t.block t.resetIn ∧
    (t.host = s.host ∨ HostMove s.host t.host)

theorem blockMove_txnNext (w : TxnWord) (s : State) :
    BlockMove s.block s.resetIn (txnNext w s).block (txnNext w s).resetIn := by
  rw [txnNext_block, txnNext_resetIn]
  cases level : s.resetIn with
  | true => exact .kept
  | false => exact .ran (decode w) rfl

theorem moves_self (s : State) : Moves s (.next s) := ⟨s, rfl, .kept, .inl rfl⟩

theorem moves_busTransaction (w : TxnWord) (s : State) : Moves s (busTransaction w s) :=
  ⟨_, busTransaction_eq w s, blockMove_txnNext w s, .inl (txnNext_host w s)⟩

theorem moves_busAccess (write : Bool) (p : Nat) (d : Word) (s : State) : Moves s (busAccess write p d s) := by
  rw [busAccess]
  cases accessTxn write p d with
  | none => exact moves_self s
  | some w => exact moves_busTransaction w s

theorem moves_driveReset (asserted : Bool) (s : State) : Moves s (.next (s.driveReset asserted)) := by
  cases asserted with
  | true => exact ⟨_, rfl, .asserted, .inl rfl⟩
  | false => exact ⟨_, rfl, .released, .inl rfl⟩

/-- The host changes alone. -/
theorem moves_withHost {s : State} {h : HostEnv} (move : HostMove s.host h) : Moves s (.next (s.withHost h)) :=
  ⟨_, rfl, .kept, .inr move⟩

/-- The host issues a transaction and goes on with the value returned. -/
theorem moves_hostIssue {s : State} (w : TxnWord) {k : HostEnv → Word → HostEnv}
    (move : ∀ v, HostMove s.host (k s.host v)) : Moves s (hostIssue w k s) :=
  ⟨_, hostIssue_eq w k s, blockMove_txnNext w s, .inr (move _)⟩

theorem moves_hostStep (s : State) : Moves s (hostStep s) := by
  rw [hostStep]
  cases phase : s.host.phase with
  | ready =>
    cases asked : s.host.requests with
    | nil => exact moves_self s
    | cons r rest => exact moves_withHost (.start phase asked)
  | loading f i => exact moves_hostIssue _ fun _ => .load phase
  | encoding => exact moves_hostIssue _ fun _ => .encode phase
  | checking => exact moves_hostIssue _ fun st => .check st phase
  | readingTx j got => exact moves_hostIssue _ fun v => .readTx v phase
  | clearing f => exact moves_hostIssue _ fun _ => .clear phase
  | writing f => exact moves_withHost (.write phase)
  | awaiting => exact moves_withHost (.read phase)
  | pushing bytes len =>
    cases bytes with
    | nil => exact moves_withHost (.pushed phase)
    | cons b rest => exact moves_hostIssue _ fun _ => .push phase
  | decoding => exact moves_hostIssue _ fun _ => .decode phase
  | readingDec j got => exact moves_hostIssue _ fun v => .readDec v phase
  | readingFlag f => exact moves_hostIssue _ fun st => .readFlag st phase

theorem moves_takeEvent (e : Event) (s : State) : Moves s (takeEvent e s) := by
  cases e with
  | transaction w => exact moves_busTransaction w s
  | access write p d => exact moves_busAccess write p d s
  | resetLine asserted => exact moves_driveReset asserted s
  | hostTurn => exact moves_hostStep s

theorem moves_step (s : State) : Moves s (step s) := by
  rw [step]
  cases s.agenda with
  | nil => exact moves_hostStep s
  | cons e rest => exact moves_takeEvent e { s with agenda := rest }

/-- The moves of a step that answers `t`. -/
theorem moves_of_step {s t : State} (h : step s = .next t) :
    BlockMove s.block s.resetIn t.block t.resetIn ∧ (t.host = s.host ∨ HostMove s.host t.host) := by
  obtain ⟨u, answer, blockMove, hostMove⟩ := moves_step s
  obtain rfl : t = u := Host.Outcome.next.inj (h.symm.trans answer)
  exact ⟨blockMove, hostMove⟩

/-- Settles O10: an instruction changes the block and the returned value only. -/
theorem everyInstructionCompletes : Obligations.EveryInstructionCompletes :=
  fun i s => ⟨_, exec_eq i s, rfl, rfl, rfl⟩

/-- Settles O11: whatever the event or the phase, the step answers a next state. -/
theorem everyStepCompletes : Obligations.EveryStepCompletes := fun s =>
  have ⟨t, answer, _⟩ := moves_step s
  ⟨t, answer⟩

/-- Settles O52: a host step changes the host alone, or runs one transaction first. -/
theorem hostActsThroughTransactions : Obligations.HostActsThroughTransactions := by
  intro s t h
  obtain ⟨host, alone⟩ | ⟨w, host, issued⟩ := hostStep_cases s
  · obtain rfl := Host.Outcome.next.inj (h.symm.trans alone)
    exact .inl rfl
  · obtain rfl := Host.Outcome.next.inj (h.symm.trans issued)
    exact .inr ⟨w, txnNext w s, busTransaction_eq w s, rfl⟩

/-! ## The block's invariant -/

theorem Block.inv_record {b : Block} (inv : b.Inv) {e : ErrCode} {k : BitVec 4}
    (index : e = .outOfRange → k.toNat ≤ 8) (zero : e ≠ .outOfRange → k = 0#4) : (b.record e k).Inv :=
  have ⟨_, tx, dec⟩ := inv
  ⟨⟨index, zero⟩, tx, dec⟩

theorem Block.inv_succeed {b : Block} (inv : b.Inv) : b.succeed.Inv := inv_record inv nofun fun _ => rfl

theorem Block.inv_raiseOutOfRange {b : Block} (inv : b.Inv) (k : Fin 9) : (b.raiseOutOfRange k).Inv :=
  inv_record inv (fun _ => by rw [errIndexOf_toNat]; omega) fun other => absurd rfl other

theorem Block.inv_raiseShortFrame {b : Block} (inv : b.Inv) : b.raiseShortFrame.Inv :=
  inv_record inv nofun fun _ => rfl

theorem Block.inv_raiseIllegalCommand {b : Block} (inv : b.Inv) : b.raiseIllegalCommand.Inv :=
  inv_record inv nofun fun _ => rfl

/-- A packed frame carries its own checksum. -/
theorem Block.inv_loadTx {b : Block} (inv : b.Inv) (bs : Vector Byte 9) : (b.loadTx (packFrame bs)).Inv :=
  have ⟨error, _, dec⟩ := inv
  ⟨error, fun _ => validFrame_packFrame bs, dec⟩

theorem Block.inv_invalidateTx {b : Block} (inv : b.Inv) : b.invalidateTx.Inv :=
  have ⟨error, _, dec⟩ := inv
  ⟨error, nofun, dec⟩

/-- The checksum and the flag are computed from the very frame that is loaded. -/
theorem Block.inv_loadDec {b : Block} (inv : b.Inv) (f : FrameBytes) : (b.loadDec f).Inv :=
  have ⟨error, tx, _⟩ := inv
  ⟨error, tx, fun _ => ⟨rfl, rfl⟩, nofun⟩

theorem Block.inv_reset : Block.reset.Inv :=
  ⟨⟨nofun, fun _ => rfl⟩, nofun, nofun, fun _ => rfl⟩

/-- Every instruction keeps the block's invariant; the field, buffer and `CK_RESULT` updates write nothing it speaks
of. -/
theorem Block.inv_blockAfter (i : Instr) {b : Block} (inv : b.Inv) : (blockAfter i b).Inv := by
  cases i with
  | nop => exact inv_succeed inv
  | encode =>
    obtain ok | ⟨k, bad⟩ := fieldsOk_or_firstBad b.fieldIn
    · rw [blockAfter_encode_ok ok]
      exact inv_succeed (inv_loadTx inv _)
    · rw [blockAfter_encode_bad bad]
      exact inv_raiseOutOfRange (inv_invalidateTx inv) k
  | decode =>
    by_cases ten : b.rxCount = 10#8
    · rw [blockAfter_decode_ok ten]
      exact inv_succeed (inv_loadDec (b := b.emptyRx) inv _)
    · rw [blockAfter_decode_bad ten]
      exact inv_raiseShortFrame (b := b.emptyRx) inv
  | checksum =>
    obtain ok | ⟨k, bad⟩ := fieldsOk_or_firstBad b.fieldIn
    · rw [blockAfter_checksum_ok ok]
      exact inv_succeed (b := b.setCkResult _) inv
    · rw [blockAfter_checksum_bad bad]
      exact inv_raiseOutOfRange inv k
  | rxClear => exact inv_succeed (b := b.emptyRx) inv
  | cmdIllegal => exact inv_raiseIllegalCommand inv
  | rxPush | wrFiStart | wrFiDev | wrFiCmd | wrFiPrm | wrFiErr | wrFiD3 | wrFiD2 | wrFiD1 | wrFiD0 | wrIgnored | rd =>
    exact inv

/-- A move of the block keeps its invariant, and the reset values while reset is asserted. -/
theorem BlockMove.keeps_inv {b b' : Block} {level level' : Bool} (move : BlockMove b level b' level') (inv : b.Inv)
    (reset : level = true → b = Block.reset) : b'.Inv ∧ (level' = true → b' = Block.reset) := by
  cases move with
  | kept => exact ⟨inv, reset⟩
  | ran i free => exact ⟨Block.inv_blockAfter i inv, fun asserted => nomatch free.symm.trans asserted⟩
  | asserted => exact ⟨Block.inv_reset, fun _ => rfl⟩
  | released => exact ⟨inv, nofun⟩

/-! ## The host's invariant

It speaks of the handle, the exchange state and the phase only: calls, records, reports and requests leave it as it
is. -/

/-- Between requests the invariant says that no exchange is under way. -/
theorem HostEnv.inv_ready {h : HostEnv} (phase : h.phase = .ready) :
    h.Inv ↔ h.session.xstate ≠ .sending ∧ h.session.xstate ≠ .awaitingResponse := by
  simp [HostEnv.Inv, phase, HostPhase.isSending, HostPhase.isAwaiting, HostPhase.pushInv]

/-- A change between requests that keeps the exchange state. -/
theorem HostEnv.inv_of_ready {h h' : HostEnv} (inv : h.Inv) (phase : h.phase = .ready) (phase' : h'.phase = .ready)
    (same : h'.session.xstate = h.session.xstate) : h'.Inv :=
  (inv_ready phase').2 (same ▸ (inv_ready phase).1 inv)

/-- A move inside an exchange between phases of one exchange state. -/
theorem HostEnv.inv_goto {h : HostEnv} {p q : HostPhase} (inv : h.Inv) (phase : h.phase = p) (running : p ≠ .ready)
    (sending : q.isSending = p.isSending) (awaiting : q.isAwaiting = p.isAwaiting) (push : q.pushInv) :
    (h.goto q).Inv := by
  obtain ⟨handle, whenSending, whenAwaiting, _⟩ := inv
  rw [phase] at handle whenSending whenAwaiting
  exact ⟨fun _ => handle running, sending ▸ whenSending, awaiting ▸ whenAwaiting, push⟩

theorem HostEnv.inv_endExchange (h : HostEnv) {x : XState} (r : Report) (notSending : x ≠ .sending)
    (notAwaiting : x ≠ .awaitingResponse) : (h.endExchange x r).Inv :=
  (inv_ready rfl).2 ⟨notSending, notAwaiting⟩

/-- The handle of an exchange under way. -/
theorem HostEnv.handle_of_running {h : HostEnv} {p : HostPhase} (inv : h.Inv) (phase : h.phase = p)
    (running : p ≠ .ready) : h.session.handle.isSome = true :=
  have ⟨handle, _⟩ := inv
  handle (phase ▸ running)

theorem HostEnv.inv_sending {h : HostEnv} (handle : h.session.handle.isSome = true) (got : FrameBytes) :
    ((h.setXState .sending).goto (.readingTx 0 got)).Inv :=
  ⟨fun _ => handle, ⟨fun _ => rfl, fun _ => rfl⟩, ⟨nofun, nofun⟩, trivial⟩

theorem HostEnv.inv_awaiting {h : HostEnv} (handle : h.session.handle.isSome = true) :
    ((h.setXState .awaitingResponse).goto .awaiting).Inv :=
  ⟨fun _ => handle, ⟨nofun, nofun⟩, ⟨fun _ => rfl, fun _ => rfl⟩, trivial⟩

/-- Opening changes neither the phase nor the exchange state. -/
theorem HostEnv.inv_openTransport {h : HostEnv} (inv : h.Inv) (phase : h.phase = .ready) (name : String) :
    (h.openTransport name).Inv := by
  rw [HostEnv.openTransport]
  cases h.transport.drawOpen.1 with
  | handle k => exact inv_of_ready inv phase phase rfl
  | transportError => exact inv

/-- Closing changes neither the phase nor the exchange state. -/
theorem HostEnv.inv_closeTransport {h : HostEnv} (inv : h.Inv) (phase : h.phase = .ready) (k : Nat) :
    (h.closeTransport k).Inv :=
  inv_of_ready inv phase phase rfl

theorem HostEnv.inv_openRequest {h : HostEnv} (inv : h.Inv) (phase : h.phase = .ready) (name : String) :
    (h.openRequest name).Inv := by
  rw [HostEnv.openRequest]
  cases h.session.handle with
  | none => exact inv_openTransport inv phase name
  | some k =>
    cases h.openPolicy with
    | failAlreadyOpen => exact inv
    | closeThenOpen => exact inv_openTransport (inv_closeTransport inv phase k) phase name

theorem HostEnv.inv_closeRequest {h : HostEnv} (inv : h.Inv) (phase : h.phase = .ready) : h.closeRequest.Inv := by
  rw [HostEnv.closeRequest]
  cases h.session.handle with
  | none => exact inv
  | some k => exact inv_closeTransport inv phase k

/-- A send that finds a handle starts its exchange, which is not yet `Sending` (R185). -/
theorem HostEnv.inv_sendRequest {h : HostEnv} (inv : h.Inv) (phase : h.phase = .ready) (f : FieldValues) :
    (h.sendRequest f).Inv := by
  obtain ⟨notSending, notAwaiting⟩ := (inv_ready phase).1 inv
  rw [HostEnv.sendRequest]
  cases handle : h.session.handle with
  | none => exact (inv_ready (h := h.refuseUnconnected) phase).2 ⟨nofun, nofun⟩
  | some k =>
    exact ⟨fun _ => Option.isSome_iff_exists.2 ⟨k, handle⟩, ⟨fun is => absurd is notSending, nofun⟩,
      ⟨fun is => absurd is notAwaiting, nofun⟩, trivial⟩

theorem HostEnv.inv_startRequest {h : HostEnv} (inv : h.Inv) (phase : h.phase = .ready) (r : HostRequest) :
    (h.startRequest r).Inv := by
  cases r with
  | openPort name => exact inv_openRequest inv phase name
  | closePort => exact inv_closeRequest inv phase
  | send f => exact inv_sendRequest inv phase f

/-- The transport answers a read with at most ten bytes (R182). -/
theorem ReadAnswer.length_of_clip {a : ReadAnswer} {bs : List Byte} (h : ReadAnswer.clip a = .bytes bs) :
    bs.length ≤ 10 := by
  cases a with
  | bytes all =>
    obtain rfl := ReadAnswer.bytes.inj h
    exact List.length_take_le _ _
  | transportError => cases h

theorem Transport.length_of_drawRead {t : Transport} {bs : List Byte} (h : t.drawRead.1 = .bytes bs) :
    bs.length ≤ 10 := by
  rw [Transport.drawRead] at h
  split at h <;> exact ReadAnswer.length_of_clip h

theorem HostEnv.inv_writeFrame (h : HostEnv) (f : FrameBytes) : (h.writeFrame f).Inv := by
  rw [HostEnv.writeFrame]
  cases handle : h.session.handle with
  | none => exact inv_endExchange h _ nofun nofun
  | some k =>
    cases h.transport.drawWrite.1 with
    | ok => exact inv_awaiting (Option.isSome_iff_exists.2 ⟨k, handle⟩)
    | transportError => exact inv_endExchange _ _ nofun nofun

theorem HostEnv.inv_readResponse {h : HostEnv} (inv : h.Inv) (phase : h.phase = .awaiting) : h.readResponse.Inv := by
  rw [HostEnv.readResponse]
  cases h.session.handle with
  | none => exact inv_endExchange h _ nofun nofun
  | some k =>
    cases answer : h.transport.drawRead.1 with
    | bytes bs =>
      exact inv_goto (h := h.call _ _) inv phase nofun rfl rfl ⟨Nat.le_refl _, Transport.length_of_drawRead answer⟩
    | transportError => exact inv_endExchange _ _ nofun nofun

/-- A move of the host keeps its invariant. -/
theorem HostMove.keeps_inv {h h' : HostEnv} (move : HostMove h h') (inv : h.Inv) : h'.Inv := by
  cases move with
  | @start r rest phase _ => exact HostEnv.inv_startRequest (h := h.setRequests rest) inv phase r
  | load phase =>
    rw [HostEnv.afterLoad]
    split <;> exact HostEnv.inv_goto inv phase nofun rfl rfl trivial
  | encode phase => exact HostEnv.inv_goto inv phase nofun rfl rfl trivial
  | check st phase =>
    rw [HostEnv.afterStatus]
    split
    · exact HostEnv.inv_endExchange h _ nofun nofun
    · exact HostEnv.inv_sending (HostEnv.handle_of_running inv phase nofun) _
  | readTx v phase =>
    rw [HostEnv.afterTxRead]
    split
    · exact HostEnv.inv_goto inv phase nofun rfl rfl trivial
    · exact HostEnv.inv_goto (h := h.present _ _) inv phase nofun rfl rfl trivial
  | clear phase => exact HostEnv.inv_goto inv phase nofun rfl rfl trivial
  | write phase => exact HostEnv.inv_writeFrame h _
  | read phase => exact HostEnv.inv_readResponse inv phase
  | push phase =>
    have ⟨_, _, _, bounds⟩ := inv
    rw [phase] at bounds
    obtain ⟨fit, ten⟩ := bounds
    exact HostEnv.inv_goto inv phase nofun rfl rfl ⟨Nat.le_of_succ_le fit, ten⟩
  | pushed phase =>
    rw [HostEnv.afterPushes]
    split
    · exact HostEnv.inv_endExchange h _ nofun nofun
    · exact HostEnv.inv_goto inv phase nofun rfl rfl trivial
  | decode phase => exact HostEnv.inv_goto inv phase nofun rfl rfl trivial
  | readDec v phase =>
    rw [HostEnv.afterDecRead]
    split <;> exact HostEnv.inv_goto inv phase nofun rfl rfl trivial
  | readFlag st phase => exact HostEnv.inv_endExchange _ _ nofun nofun

/-! ## The machine's invariant -/

/-- Settles O46: the block and the host each keep their part of the invariant in every move of theirs. -/
theorem stepKeepsInvariant : Obligations.StepKeepsInvariant := by
  intro s t ⟨blockInv, hostInv, resetInv⟩ h
  obtain ⟨blockMove, hostMove⟩ := moves_of_step h
  obtain ⟨blockInv', resetInv'⟩ := blockMove.keeps_inv blockInv resetInv
  refine ⟨blockInv', ?host, resetInv'⟩
  obtain same | move := hostMove
  · rw [same]; exact hostInv
  · exact move.keeps_inv hostInv

/-- Settles O47: the block is at its reset values and the host between requests in `Idle`. -/
theorem resetMeetsInvariant : Obligations.ResetMeetsInvariant :=
  ⟨Block.inv_reset, (HostEnv.inv_ready rfl).2 ⟨nofun, nofun⟩, nofun⟩

/-! ## One exchange at a time (R181) -/

theorem HostEnv.writeFrame_requests (h : HostEnv) (f : FrameBytes) : (h.writeFrame f).requests = h.requests := by
  rw [HostEnv.writeFrame]
  cases h.session.handle with
  | none => rfl
  | some k => cases h.transport.drawWrite.1 with | _ => rfl

theorem HostEnv.readResponse_requests (h : HostEnv) : h.readResponse.requests = h.requests := by
  rw [HostEnv.readResponse]
  cases h.session.handle with
  | none => rfl
  | some k => cases h.transport.drawRead.1 with | _ => rfl

/-- Requests are taken between exchanges only. -/
theorem HostMove.requests_of_running {h h' : HostEnv} (move : HostMove h h') (running : h.phase ≠ .ready) :
    h'.requests = h.requests := by
  cases move with
  | start phase _ => exact absurd phase running
  | load => rw [HostEnv.afterLoad]; split <;> rfl
  | check => rw [HostEnv.afterStatus]; split <;> rfl
  | readTx => rw [HostEnv.afterTxRead]; split <;> rfl
  | write => exact h.writeFrame_requests _
  | read => exact h.readResponse_requests
  | pushed => rw [HostEnv.afterPushes]; split <;> rfl
  | readDec => rw [HostEnv.afterDecRead]; split <;> rfl
  | encode | clear | push | decode | readFlag => rfl

theorem requests_of_step_running {s t : State} (running : s.host.phase ≠ .ready) (h : step s = .next t) :
    t.host.requests = s.host.requests := by
  obtain ⟨_, same | move⟩ := moves_of_step h
  · rw [same]
  · exact move.requests_of_running running

/-- Settles O51: a running exchange takes no request, and under the invariant `Sending` and `AwaitingResponse` are states
of a running exchange. -/
theorem oneExchangeAtATime : Obligations.OneExchangeAtATime := by
  refine ⟨fun s t => requests_of_step_running, fun s t ⟨_, hostInv, _⟩ underWay => ?_⟩
  have running : s.host.phase ≠ .ready := by
    intro ready
    obtain ⟨notSending, notAwaiting⟩ := (HostEnv.inv_ready ready).1 hostInv
    exact underWay.elim notSending notAwaiting
  exact ⟨running, requests_of_step_running running⟩

end Sys2Proof.Machine
end

section
/-! SUPPORT. The event queue, the platform window and the register map (spec/20_memory.md sections 1 to 3,
spec/70_reset_and_hazards.md section 1). Settles O8, O9, O14, O15, O16 and O20. -/

namespace Sys2Proof.Machine

/-! ## Events and reset -/

theorem step_idle {s : State} (noEvent : s.agenda = []) : step s = hostStep s := by
  rw [step, noEvent]

theorem step_event {s : State} {e : Event} {rest : List Event} (next : s.agenda = e :: rest) :
    step s = takeEvent e { s with agenda := rest } := by
  rw [step, next]

theorem busTransaction_released {s : State} (released : s.resetIn = false) (w : TxnWord) :
    busTransaction w s = exec (decode w) s := by
  rw [busTransaction, released, if_neg Bool.false_ne_true]

/-- Settles O8: the event is a transaction, which with reset released is the decoded instruction. -/
theorem stepRunsDecodedTransaction : Obligations.StepRunsDecodedTransaction := by
  intro s w rest released next
  rw [step_event next]
  exact busTransaction_released (s := { s with agenda := rest }) released w

/-- Settles O9: the exchange controller has nothing in progress and nothing asked. -/
theorem nothingHappensUnasked : Obligations.NothingHappensUnasked := by
  intro s noEvent ready noRequest
  rw [step_idle noEvent, hostStep, ready, noRequest]

/-- Settles O14: an assertion is one step; under the invariant a release is another, after which the transaction meets
the reset values. -/
theorem transactionAfterResetRelease : Obligations.TransactionAfterResetRelease := by
  refine ⟨fun s rest next => step_event next, fun s w rest resetInv asserted next => ?_⟩
  exact ⟨_, step_event next, resetInv asserted, rfl,
    stepRunsDecodedTransaction { s with resetIn := false, agenda := .transaction w :: rest } w rest rfl rfl⟩

/-! ## The platform window (R50) -/

theorem registerAddrOf_platformAddr (a : Addr) : registerAddrOf (platformAddr a) = some a := by
  have inWindow : Config.baseAddr ≤ platformAddr a ∧ platformAddr a < Config.baseAddr + 256 :=
    ⟨Nat.le_add_right _ _, Nat.add_lt_add_left a.isLt _⟩
  rw [registerAddrOf, if_pos inWindow, platformAddr, Nat.add_sub_cancel_left, BitVec.ofNat_toNat, BitVec.setWidth_eq]

theorem registerAddrOf_outside {p : Nat} (h : p < Config.baseAddr ∨ Config.baseAddr + 256 ≤ p) :
    registerAddrOf p = none :=
  if_neg (by omega)

/-- Settles O15: inside the window the access is the transaction at the register address, outside there is none. -/
theorem platformWindow : Obligations.PlatformWindow := by
  refine ⟨fun s w a d => ?inside, fun s w p d outside => ?outside⟩
  case inside =>
    have txn : accessTxn w (platformAddr a) d = some (makeTxn w a (if w then d else 0#16)) := by
      rw [accessTxn, registerAddrOf_platformAddr, Option.map_some]
    rw [← platformAddr, busAccess, txn]
  case outside => rw [busAccess, accessTxn, registerAddrOf_outside outside, Option.map_none]

/-! ## The register map (R51) -/

/-- The register found at an address has that address. -/
theorem addr_of_ofAddr {a : Addr} {r : Reg} (h : Reg.ofAddr a = some r) : r.addr = a := by
  apply BitVec.eq_of_toNat_eq
  simp only [Reg.ofAddr] at h
  split_ifs at h <;> obtain rfl := Option.some.inj h <;>
    simp only [Reg.addr, BitVec.toNat_ofNat] <;> omega

/-- The unmapped addresses are the gaps between the registers' ranges. -/
theorem ofAddr_eq_none_iff (a : Addr) : Reg.ofAddr a = none ↔
    (0x06 ≤ a.toNat ∧ a.toNat ≤ 0x0F) ∨ (0x19 ≤ a.toNat ∧ a.toNat ≤ 0x1F) ∨ (0x2A ≤ a.toNat ∧ a.toNat ≤ 0x2F) ∨
      (0x3A ≤ a.toNat ∧ a.toNat ≤ 0x3F) ∨ 0x4A ≤ a.toNat := by
  simp only [Reg.ofAddr]
  split_ifs <;> simp only [false_iff, true_iff] <;> omega

/-- Settles O16: the addresses, the two inverse laws and the gaps of the map. -/
theorem registerMapOneToOne : Obligations.RegisterMapOneToOne :=
  ⟨⟨rfl, rfl, rfl, rfl, rfl, rfl⟩, fieldIn_addr_toNat,
    fun j => ⟨tx_addr_toNat j, dec_addr_toNat j, rxbuf_addr_toNat j⟩, ofAddr_addr, fun _ _ => addr_of_ofAddr,
    ofAddr_eq_none_iff⟩

/-! ## Repeating an access (R57) -/

theorem Block.setField_idem (b : Block) (i : Fin 9) (v : Word) : (b.setField i v).setField i v = b.setField i v := by
  simp only [Block.setField, Vector.set_set]

/-- Settles O20: a read depends on the block only, which it leaves, and a field holds the value written last. -/
theorem readsAndFieldWritesIdempotent : Obligations.ReadsAndFieldWritesIdempotent := by
  refine ⟨fun a ign s => ⟨_, exec_rd a ign s, rfl, exec_rd a ign _⟩, fun i v s => ⟨_, exec_fieldWrite i v s, ?_⟩⟩
  rw [exec_fieldWrite, State.withBlock_block, Block.setField_idem]
  rfl

end Sys2Proof.Machine
end

section
/-! SUPPORT. What every instruction can do to each register, said once over all instructions: the writers of each
register, the frame through the register map and the flags (spec/10_state.md sections 2 to 9). Settles O34 to O37 and
O58. -/

namespace Sys2Proof.Machine

/-! ## The outcomes of an instruction -/

/-- The state after an instruction: a command has one of its outcomes, and each other transaction does one thing. -/
inductive InstrOutcome (s : State) : Instr → State → Prop where
  | command {i : Instr} {t : State} (outcome : CommandOutcome s i t) : InstrOutcome s i t
  | push (ign x : Byte) : InstrOutcome s (.rxPush ign x) (s.withBlock (s.block.pushByte x))
  | field (k : Fin 9) (v : Word) : InstrOutcome s (fieldWrite k v) (s.withBlock (s.block.setField k v))
  | ignored (a : Addr) (d : Word) : InstrOutcome s (.wrIgnored a d) s
  | read (a : Addr) (ign : Word) : InstrOutcome s (.rd a ign) (s.answer (s.block.readAddr a))

theorem instrOutcome_of_exec {i : Instr} {s t : State} (h : exec i s = .next t) : InstrOutcome s i t := by
  by_cases cmd : isCommand i
  · exact .command (commandOutcome_of_exec h cmd)
  by_cases write : ∃ k v, i = fieldWrite k v
  · obtain ⟨k, v, rfl⟩ := write
    exact exec_next_unique (exec_fieldWrite k v s) h ▸ .field k v
  cases i with
  | nop | encode | decode | checksum | rxClear | cmdIllegal => simp [isCommand] at cmd
  | rxPush ign x => exact exec_next_unique (exec_rxPush ign x s) h ▸ .push ign x
  | wrIgnored a d => exact exec_next_unique (exec_wrIgnored a d s) h ▸ .ignored a d
  | rd a ign => exact exec_next_unique (exec_rd a ign s) h ▸ .read a ign
  | _ => exact absurd ((isFieldWrite_cases _).2 (by simp)) write

/-! ## The writers of each register -/

section
variable {i : Instr} {s t : State} (h : exec i s = .next t)
include h

theorem fieldIn_kept (other : ∀ k v, i ≠ fieldWrite k v) : t.block.fieldIn = s.block.fieldIn := by
  cases instrOutcome_of_exec h with
  | command outcome => cases outcome with | _ => rfl
  | field k v => exact absurd rfl (other k v)
  | push | ignored | read => rfl

theorem tx_kept (other : i ≠ .encode) : t.block.tx = s.block.tx ∧ t.block.txValid = s.block.txValid := by
  cases instrOutcome_of_exec h with
  | command outcome =>
    cases outcome with
    | encoded | encodeOutOfRange => exact absurd rfl other
    | _ => exact ⟨rfl, rfl⟩
  | field | push | ignored | read => exact ⟨rfl, rfl⟩

theorem rxbuf_kept (other : ∀ x y, i ≠ .rxPush x y) : t.block.rxbuf = s.block.rxbuf := by
  cases instrOutcome_of_exec h with
  | command outcome => cases outcome with | _ => rfl
  | push ign x => exact absurd rfl (other ign x)
  | field | ignored | read => rfl

theorem rxCount_kept (notPush : ∀ x y, i ≠ .rxPush x y) (notDecode : i ≠ .decode) (notClear : i ≠ .rxClear) :
    t.block.rxCount = s.block.rxCount := by
  cases instrOutcome_of_exec h with
  | command outcome =>
    cases outcome with
    | decoded | decodeShortFrame => exact absurd rfl notDecode
    | rxCleared => exact absurd rfl notClear
    | _ => rfl
  | push ign x => exact absurd rfl (notPush ign x)
  | field | ignored | read => rfl

theorem dec_kept (other : i ≠ .decode) :
    t.block.dec = s.block.dec ∧ t.block.decValid = s.block.decValid ∧ t.block.ckValid = s.block.ckValid ∧
      t.block.decCkCalc = s.block.decCkCalc := by
  cases instrOutcome_of_exec h with
  | command outcome =>
    cases outcome with
    | decoded | decodeShortFrame => exact absurd rfl other
    | _ => exact ⟨rfl, rfl, rfl, rfl⟩
  | field | push | ignored | read => exact ⟨rfl, rfl, rfl, rfl⟩

theorem ckResult_kept (other : i ≠ .checksum) : t.block.ckResult = s.block.ckResult := by
  cases instrOutcome_of_exec h with
  | command outcome =>
    cases outcome with
    | checksummed | checksumOutOfRange => exact absurd rfl other
    | _ => rfl
  | field | push | ignored | read => rfl

theorem readData_kept (other : ∀ a d, i ≠ .rd a d) : t.readData = s.readData := by
  cases instrOutcome_of_exec h with
  | command outcome => cases outcome with | _ => rfl
  | read a ign => exact absurd rfl (other a ign)
  | field | push | ignored => rfl

end

/-- Settles O34, register by register. -/
theorem eachRegisterHasItsWriters : Obligations.EachRegisterHasItsWriters := by
  intro i s t h
  have outside : t.resetIn = s.resetIn ∧ t.agenda = s.agenda ∧ t.host = s.host := by
    rw [exec_next h]
    exact ⟨rfl, rfl, rfl⟩
  exact ⟨fieldIn_kept h, tx_kept h, rxbuf_kept h, rxCount_kept h, dec_kept h, ckResult_kept h, readData_kept h, outside⟩

/-! ## The frame through the register map -/

/-- A field register keeps its value unless the instruction is the write of that very field. -/
theorem fieldIn_getElem_kept {i : Instr} {s t : State} (h : exec i s = .next t) (j : Fin 9)
    (apart : ∀ k v, i = fieldWrite k v → j ≠ k) : t.block.fieldIn[j] = s.block.fieldIn[j] := by
  by_cases write : ∃ k v, i = fieldWrite k v
  · obtain ⟨k, v, rfl⟩ := write
    rw [exec_next_unique h (exec_fieldWrite k v s)]
    exact Vector.getElem_set_ne k.isLt j.isLt (Fin.val_ne_of_ne (apart k v rfl).symm)
  · rw [fieldIn_kept h fun k v is => write ⟨k, v, is⟩]

/-- A byte of the receive buffer keeps its value unless the instruction is a push to that very place. -/
theorem rxbuf_getElem_kept {i : Instr} {s t : State} (h : exec i s = .next t) (j : Fin 10)
    (apart : ∀ x y, i = .rxPush x y → s.block.rxCount.toNat ≠ j.val) : t.block.rxbuf[j] = s.block.rxbuf[j] := by
  by_cases push : ∃ x y, i = .rxPush x y
  · obtain ⟨ign, x, rfl⟩ := push
    rw [exec_next_unique h (exec_rxPush ign x s), State.withBlock_block]
    by_cases space : s.block.rxCount.toNat < 10
    · rw [pushByte_rxbuf x space]
      exact Vector.getElem_set_ne space j.isLt (apart ign x rfl)
    · rw [pushByte_rxbuf_full x (by omega)]
  · rw [rxbuf_kept h fun x y is => push ⟨x, y, is⟩]

/-- Settles O35: an unmapped address reads zero, and a mapped one reads a register that the instruction, by the excluded
addresses, does not write. -/
theorem registerReadsUnchangedElsewhere : Obligations.RegisterReadsUnchangedElsewhere := by
  intro i s t a h notStatus encode decode checksum clear push field
  cases mapped : Reg.ofAddr a with
  | none => rw [readAddr_unmapped _ mapped, readAddr_unmapped _ mapped]
  | some r =>
    obtain rfl := addr_of_ofAddr mapped
    rw [readAddr_addr, readAddr_addr]
    cases r with
    | cmd | rxData => rfl
    | status => exact absurd rfl notStatus
    | rxCount =>
      have kept := rxCount_kept h (fun x y is => (push x y is).1 rfl) (fun is => (decode is).1 rfl)
        (fun is => clear is rfl)
      rw [Block.readReg, Block.readReg, kept]
    | ckResult => rw [Block.readReg, Block.readReg, ckResult_kept h fun is => checksum is rfl]
    | decCkCalc =>
      obtain ⟨-, -, -, kept⟩ := dec_kept h fun is => (decode is).2.1 rfl
      rw [Block.readReg, Block.readReg, kept]
    | fieldIn j =>
      refine fieldIn_getElem_kept h j fun k v is same => field k v is ?_
      rw [fieldIn_addr_toNat, same]
    | tx j =>
      obtain ⟨kept, -⟩ := tx_kept h fun is => encode is (by rw [tx_addr_toNat]; omega)
      rw [Block.readReg, Block.readReg, kept]
    | dec j =>
      obtain ⟨kept, -⟩ := dec_kept h fun is => (decode is).2.2 (by rw [dec_addr_toNat]; omega)
      rw [Block.readReg, Block.readReg, kept]
    | rxbuf j =>
      have kept := rxbuf_getElem_kept h j fun x y is same => (push x y is).2 (by rw [rxbuf_addr_toNat, same])
      rw [Block.readReg, Block.readReg, kept]

/-! ## The flags (R37, R38) -/

/-- `ENCODE` leaves `TX_VALID` set exactly when it recorded success. -/
theorem txValid_iff_of_encode {s t : State} (h : exec .encode s = .next t) :
    t.block.txValid = true ↔ t.block.err = .none := by
  cases commandOutcome_of_exec h (.inr (.inl rfl)) with
  | encoded => exact ⟨fun _ => rfl, fun _ => rfl⟩
  | encodeOutOfRange => exact ⟨nofun, nofun⟩

/-- A `DECODE` loads the decoded frame and its flags with success, or leaves them. -/
theorem dec_of_decode {s t : State} (h : exec .decode s = .next t) :
    (t.block.err = .none ∧ t.block.decValid = true ∧ t.block.ckValid = validFrame t.block.dec) ∨
    (t.block.err = .shortFrame ∧ t.block.decValid = s.block.decValid ∧ t.block.ckValid = s.block.ckValid) := by
  cases commandOutcome_of_exec h (.inr (.inr (.inl rfl))) with
  | decoded => exact .inl ⟨rfl, rfl, rfl⟩
  | decodeShortFrame => exact .inr ⟨rfl, rfl, rfl⟩

/-- Settles O36: only `ENCODE` and `DECODE` write the flags, and by their outcomes. -/
theorem flagsSetAndCleared : Obligations.FlagsSetAndCleared := by
  intro i s t h
  refine ⟨fun changed => ?tx, fun encode => ?encode, fun changed => ?dec, fun decode ok => ?decValid,
    fun changed => ?ck, fun decode ok => ?ckValid⟩
  case tx =>
    by_contra other
    exact changed (tx_kept h other).2
  case encode =>
    subst encode
    exact txValid_iff_of_encode h
  case dec =>
    by_cases decode : i = .decode
    · subst decode
      obtain ⟨ok, set, -⟩ | ⟨-, kept, -⟩ := dec_of_decode h
      · exact ⟨rfl, ok, set⟩
      · exact absurd kept changed
    · obtain ⟨-, kept, -⟩ := dec_kept h decode
      exact absurd kept changed
  case decValid =>
    subst decode
    obtain ⟨-, set, -⟩ | ⟨failed, -⟩ := dec_of_decode h
    · exact set
    · exact nomatch ok.symm.trans failed
  case ck =>
    by_cases decode : i = .decode
    · subst decode
      obtain ⟨ok, -, -⟩ | ⟨-, -, kept⟩ := dec_of_decode h
      · exact ⟨rfl, ok⟩
      · exact absurd kept changed
    · obtain ⟨-, -, kept, -⟩ := dec_kept h decode
      exact absurd kept changed
  case ckValid =>
    subst decode
    obtain ⟨-, -, flag⟩ | ⟨failed, -⟩ := dec_of_decode h
    · rw [flag, validFrame_iff]
    · exact nomatch ok.symm.trans failed

/-- Settles O37: the block after an instruction and the value of a read are functions of the block before. -/
theorem transactionDependsOnBlockAlone : Obligations.TransactionDependsOnBlockAlone := by
  intro i s₁ s₂ t₁ t₂ same h₁ h₂
  rw [exec_next h₁, exec_next h₂]
  refine ⟨congrArg (blockAfter i) same, ?_⟩
  rintro a d rfl
  exact congrArg (fun b : Block => some (b.readAddr a)) same

/-- Settles O58: the two flags compare the count with ten, on which the outcome of `DECODE` depends. -/
theorem statusForetellsDecode : Obligations.StatusForetellsDecode := by
  intro s
  rw [Block.status_rxCount_ten, Block.status_rxCount_above_ten, decide_eq_true_iff, decide_eq_true_iff,
    decide_eq_false_iff_not, decide_eq_false_iff_not]
  by_cases ten : s.block.rxCount = 10#8
  · have count := (rxCount_ten s.block).1 ten
    exact ⟨_, exec_decode_ok ten, fun _ => rfl, by omega, by omega⟩
  · have count := mt (rxCount_ten s.block).2 ten
    exact ⟨_, exec_decode_bad ten, fun exact => absurd exact count, fun _ => rfl, fun _ _ => ⟨by omega, rfl⟩⟩

end Sys2Proof.Machine
end

section
/-! SUPPORT. The Frame record as a view of ten bytes, re-encoding a decoded frame, what the checksum detects, and
pushing any number of bytes before `DECODE` (spec/40_checksum.md section 4, spec/41_frame_codec.md sections 1 to 3).
Settles O41, O43, O44 and O45. -/

namespace Sys2Proof.Machine

/-! ## Serialisation (R120, R86) -/

/-- A byte appended below a number shifts the number by eight bits. -/
theorem toNat_append_byte {n : Nat} (x : BitVec n) (b : Byte) : (x ++ b).toNat = x.toNat * 2 ^ 8 + b.toNat := by
  rw [BitVec.toNat_append, ← Nat.shiftLeft_add_eq_or_of_lt b.isLt, Nat.shiftLeft_eq]

/-- Settles O41: the record and the bytes are inverse views, and each appended byte stands eight bits below the last. -/
theorem frameSerialisation : Obligations.FrameSerialisation := by
  refine ⟨Frame.ofBytes_serialize, Frame.serialize_ofBytes, fun b => ?_⟩
  have bytes : (Frame.ofBytes b).data32 = b[5] ++ b[6] ++ b[7] ++ b[8] := rfl
  rw [bytes, toNat_append_byte, toNat_append_byte, toNat_append_byte]
  omega

/-! ## A frame as its span and its check byte -/

theorem ckSpan_push_check (b : FrameBytes) : (ckSpan b).push b[9] = b := Vector.push_pop_back b

theorem toList_eq_ckSpan_append (b : FrameBytes) : b.toList = (ckSpan b).toList ++ [b[9]] := by
  rw [← Vector.toList_push, ckSpan_push_check]

theorem take_nine_eq_ckSpan (b : FrameBytes) : b.toList.take 9 = (ckSpan b).toList := by
  rw [toList_eq_ckSpan_append, List.take_left' (Vector.length_toList ..)]

theorem validFrame_iff_checksum (b : FrameBytes) : validFrame b = true ↔ checksum (ckSpan b) = b[9] := by
  rw [validFrame, beq_iff_eq]

/-- Packing the first nine bytes again gives the frame exactly when it is valid. -/
theorem packFrame_ckSpan_eq_iff (b : FrameBytes) : packFrame (ckSpan b) = b ↔ validFrame b = true := by
  constructor
  · intro same
    rw [← same, validFrame_packFrame]
  · intro valid
    rw [packFrame, (validFrame_iff_checksum b).1 valid, ckSpan_push_check]

/-! ## Re-encoding a decoded frame (R131) -/

/-- Nine bytes are in range, and Encode packs them as they are. -/
theorem encodeFrame_bytes (bs : Vector Byte 9) :
    encodeFrame (bs.map fun b => (b.toNat : Int)) = .ok (packFrame bs) := by
  have inRange (i : Fin 9) :
      0 ≤ (bs.map fun b => (b.toNat : Int))[i] ∧ (bs.map fun b => (b.toNat : Int))[i] ≤ 255 := by
    have fits := bs[i].isLt
    simp only [Fin.getElem_fin, Vector.getElem_map] at fits ⊢
    omega
  have same : intBytes (bs.map fun b => (b.toNat : Int)) = bs := by
    ext i hi
    rw [intBytes_getElem, Vector.getElem_map, BitVec.ofInt_natCast, BitVec.ofNat_toNat, BitVec.setWidth_eq]
  rw [encodeFrame_ok inRange, same]

/-- The fields of a decoded frame, in frame order, are its first nine bytes. -/
theorem ofBytes_fields (b : FrameBytes) :
    (#v[((Frame.ofBytes b).startByte.toNat : Int), ((Frame.ofBytes b).devId.toNat : Int),
      ((Frame.ofBytes b).cmdId.toNat : Int), ((Frame.ofBytes b).prmId.toNat : Int),
      ((Frame.ofBytes b).errorByte.toNat : Int), ((Frame.ofBytes b).data[0].toNat : Int),
      ((Frame.ofBytes b).data[1].toNat : Int), ((Frame.ofBytes b).data[2].toNat : Int),
      ((Frame.ofBytes b).data[3].toNat : Int)] : Vector Int 9) = (ckSpan b).map fun x => (x.toNat : Int) := by
  rw [vector9_cases ((ckSpan b).map _)]
  simp only [Vector.getElem_map, ckSpan_getElem]
  rfl

/-- Settles O43: Encode of the decoded fields packs the first nine bytes. -/
theorem reencodeDecodedFrame : Obligations.ReencodeDecodedFrame := by
  intro b
  refine ⟨Frame.ofBytes b, validFrame b, packFrame (ckSpan b), decodeFrame_toList b, ?encode, fun i => ?span, ?check,
    packFrame_ckSpan_eq_iff b⟩
  case encode => rw [ofBytes_fields, encodeFrame_bytes]
  case span => rw [packFrame_span _ _ i.isLt, ckSpan_getElem]
  case check => rw [packFrame_check, checksum_ckSpan]

/-! ## What the checksum detects (R105, R106) -/

/-- The bytes of a valid frame sum to twice the last one (R105). -/
theorem sum_of_validFrame {b : FrameBytes} (valid : validFrame b = true) :
    (b.toList.map BitVec.toNat).sum % 256 = 2 * b[9].toNat % 256 := by
  have span : ((ckSpan b).toList.map BitVec.toNat).sum % 256 = b[9].toNat := by
    rw [← checksum_toNat, (validFrame_iff_checksum b).1 valid]
  rw [toList_eq_ckSpan_append, List.map_append, List.sum_append, List.map_singleton, List.sum_singleton]
  omega

/-- Replacing one entry of a list changes the sum by the difference of the two entries. -/
theorem sum_set_add_getElem (l : List Nat) {n : Nat} (h : n < l.length) (a : Nat) :
    (l.set n a).sum + l[n] = l.sum + a := by
  have whole := List.sum_take_add_sum_drop l n
  rw [List.drop_eq_getElem_cons h, List.sum_cons] at whole
  rw [List.sum_set, if_pos h]
  omega

theorem sum_set_byte (b : FrameBytes) (j : Fin 10) (x : Byte) :
    ((b.set j x).toList.map BitVec.toNat).sum + b[j].toNat = (b.toList.map BitVec.toNat).sum + x.toNat := by
  have sums := sum_set_add_getElem (b.toList.map BitVec.toNat) (n := j.val) (by simp) x.toNat
  rwa [← List.map_set, ← Vector.toList_set, List.getElem_map, Vector.getElem_toList] at sums

/-- A change of one byte of a valid frame is detected (R106): in the span it moves the sum and not the check byte, at
the end the check byte and not the sum of the span. -/
theorem validFrame_set_of_ne {b : FrameBytes} {j : Fin 10} {x : Byte} (valid : validFrame b = true)
    (changed : x ≠ b[j]) : validFrame (b.set j x) = false := by
  by_contra still
  have before := sum_of_validFrame valid
  have after := sum_of_validFrame (Bool.of_not_eq_false still)
  have sums := sum_set_byte b j x
  have values : x.toNat ≠ b[j].toNat := mt BitVec.eq_of_toNat_eq changed
  have xFits := x.isLt
  have bFits := b[j].isLt
  by_cases last : j.val = 9
  · obtain rfl : j = 9 := Fin.ext last
    have check : (b.set (9 : Fin 10) x)[9] = x := Vector.getElem_set_self (by decide)
    have old : b[(9 : Fin 10)] = b[9] := rfl
    rw [check] at after
    rw [old] at sums values bFits
    omega
  · have check : (b.set j x)[9] = b[9] := Vector.getElem_set_ne j.isLt (by decide) last
    rw [check] at after
    omega

/-- The validity of a frame depends on its check byte and on the sum of the first nine modulo 256. -/
theorem validFrame_eq_of_sum {b d : FrameBytes} (check : b[9] = d[9])
    (sums : ((b.toList.take 9).map BitVec.toNat).sum % 256 = ((d.toList.take 9).map BitVec.toNat).sum % 256) :
    validFrame b = validFrame d := by
  have same : checksum (ckSpan b) = checksum (ckSpan d) := by
    apply BitVec.eq_of_toNat_eq
    rwa [checksum_toNat, checksum_toNat, ← take_nine_eq_ckSpan, ← take_nine_eq_ckSpan]
  rw [validFrame, validFrame, same, check]

/-- Settles O44: one changed byte breaks the law of `sum_of_validFrame`; a reordering or a compensating change keeps the
sum of the first nine modulo 256. -/
theorem detectionPower : Obligations.DetectionPower := by
  refine ⟨validFrame_packFrame, fun _ => sum_of_validFrame, fun _ _ _ => validFrame_set_of_ne,
    fun b d perm check => ?reordered, fun b d check ⟨k, difference⟩ => ?compensated⟩
  case reordered => exact validFrame_eq_of_sum check (by rw [(perm.map BitVec.toNat).sum_eq])
  case compensated => exact validFrame_eq_of_sum check (by omega)

/-! ## Pushing any number of bytes before `DECODE` (R125, R129, R163) -/

/-- Other than ten bytes pushed into an empty buffer and `DECODE`: `SHORT_FRAME` is recorded. -/
theorem busSequence_push_decode_short {s : State} {bs : List Byte} (released : s.resetIn = false)
    (empty : s.block.rxCount = 0#8) (short : bs.length ≠ 10) :
    busSequence (bs.map (fun b => (0x103#9 ++ 0x00#8 ++ b : TxnWord)) ++ [0x1000002#25]) s =
      .next (s.withBlock (bs.foldl Block.pushByte s.block).emptyRx.raiseShortFrame) := by
  have other : (bs.foldl Block.pushByte s.block).rxCount ≠ 10#8 := by
    rw [Ne, rxCount_ten, foldl_pushByte_rxCount, empty, BitVec.toNat_zero]
    omega
  rw [busSequence_append, busSequence_pushes _ released, andThen_next, busSequence_cons,
    txnNext_of_decode (i := .decode) ?stillReleased (by decide) rfl, State.withBlock_block, blockAfter_decode_bad other,
    busSequence_nil]
  · rfl
  case stillReleased => exact released

/-- Settles O45: ten pushed bytes stand in the buffer as a frame, which `DECODE` loads as Decode reads it; after any
other number of pushes the count, even saturated, is not ten. -/
theorem pushThenDecodeAgrees : Obligations.PushThenDecodeAgrees := by
  intro s bs released empty
  by_cases ten : bs.length = 10
  · obtain ⟨f, rfl⟩ : ∃ f : FrameBytes, bs = f.toList := ⟨⟨bs.toArray, ten⟩, rfl⟩
    refine ⟨_, busSequence_push_decode f released empty, rfl, ?_⟩
    rw [decodeFrame_toList]
    exact ⟨rfl, rfl, rfl, rfl⟩
  · refine ⟨_, busSequence_push_decode_short released empty ten, rfl, ?_⟩
    rw [decodeFrame_short ten, foldl_pushByte_frame]
    exact ⟨rfl, rfl, rfl, rfl, rfl⟩

end Sys2Proof.Machine
end

section
/-! SUPPORT. The requests of the host and whole sends (spec/43_exchange_host.md sections 2 to 4): `OPEN` and `CLOSE`,
and a send by where it ends. Settles O48, O49, O50, O53 to O57 and O59. -/

namespace Sys2Proof.Machine

/-! ## The transport's scripted answers (R182) -/

theorem HostEnv.openTransport_handle {h : HostEnv} {n : Nat} {rest : List OpenAnswer} (name : String)
    (answer : h.transport.opens = .handle n :: rest) :
    h.openTransport name =
      ((h.call (.openPort name h.baud) { h.transport with opens := rest }).setHandle (some n)).tell .opened := by
  simp only [HostEnv.openTransport, Transport.drawOpen, answer]

theorem HostEnv.openTransport_error {h : HostEnv} {rest : List OpenAnswer} (name : String)
    (answer : h.transport.opens = .transportError :: rest) :
    h.openTransport name =
      (h.call (.openPort name h.baud) { h.transport with opens := rest }).tell .transportError := by
  simp only [HostEnv.openTransport, Transport.drawOpen, answer]

theorem HostEnv.writeFrame_error {h : HostEnv} {k : Nat} {rest : List WriteAnswer} (f : FrameBytes)
    (handle : h.session.handle = some k) (answer : h.transport.writes = .transportError :: rest) :
    h.writeFrame f =
      (h.call (.write k f.toList) { h.transport with writes := rest }).endExchange .idle .transportError := by
  simp only [HostEnv.writeFrame, handle, Transport.drawWrite, answer]

theorem HostEnv.readResponse_error {h : HostEnv} {k : Nat} {rest : List ReadAnswer}
    (handle : h.session.handle = some k) (answer : h.transport.reads = .transportError :: rest) :
    h.readResponse =
      (h.call (.read k 10 h.readTimeout) { h.transport with reads := rest }).endExchange .idle .transportError := by
  simp only [HostEnv.readResponse, handle, Transport.drawRead, answer, ReadAnswer.clip, Config.respLen]

/-! ## Requests -/

/-- With no event waiting and no request in progress, the step starts the oldest request. -/
theorem step_request {s : State} {r : HostRequest} {rest : List HostRequest} (noEvent : s.agenda = [])
    (ready : s.host.phase = .ready) (asked : s.host.requests = r :: rest) :
    step s = .next (s.withHost ((s.host.setRequests rest).startRequest r)) := by
  rw [step_idle noEvent, hostStep, ready, asked]

theorem HostEnv.openRequest_absent {h : HostEnv} (handle : h.session.handle = none) (name : String) :
    h.openRequest name = h.openTransport name := by
  rw [HostEnv.openRequest, handle]

theorem HostEnv.openRequest_refused {h : HostEnv} {k : Nat} (handle : h.session.handle = some k)
    (policy : h.openPolicy = .failAlreadyOpen) (name : String) : h.openRequest name = h.tell .alreadyOpen := by
  rw [HostEnv.openRequest, handle, policy]

theorem HostEnv.openRequest_reopens {h : HostEnv} {k : Nat} (handle : h.session.handle = some k)
    (policy : h.openPolicy = .closeThenOpen) (name : String) :
    h.openRequest name = (h.closeTransport k).openTransport name := by
  rw [HostEnv.openRequest, handle, policy]

theorem HostEnv.closeRequest_present {h : HostEnv} {k : Nat} (handle : h.session.handle = some k) :
    h.closeRequest = (h.closeTransport k).tell .closed := by
  rw [HostEnv.closeRequest, handle]

theorem HostEnv.closeRequest_absent {h : HostEnv} (handle : h.session.handle = none) :
    h.closeRequest = h.tell .closed := by
  rw [HostEnv.closeRequest, handle]

theorem HostEnv.sendRequest_absent {h : HostEnv} (handle : h.session.handle = none) (f : FieldValues) :
    h.sendRequest f = h.refuseUnconnected := by
  rw [HostEnv.sendRequest, handle]

/-- Settles O48: the connection check comes first, and without a handle it is all that is done. -/
theorem sendWithoutHandle : Obligations.SendWithoutHandle := by
  intro s f rest noEvent ready asked handle
  rw [step_request noEvent ready asked, HostEnv.startRequest,
    HostEnv.sendRequest_absent (h := s.host.setRequests rest) handle]
  rfl

/-- Settles O49: by the handle, the policy and the answer of the transport. -/
theorem openRequest : Obligations.OpenRequest := by
  intro s name rest answers noEvent ready asked
  have started := step_request noEvent ready asked
  rw [HostEnv.startRequest] at started
  refine ⟨fun n handle answer => ?opened, fun handle answer => ?failed, fun k handle policy => ?refused,
    fun k n handle policy answer => ?reopened, fun k handle policy answer => ?reopenFailed⟩
  case opened =>
    rw [HostEnv.openRequest_absent (h := s.host.setRequests rest) handle,
      HostEnv.openTransport_handle (h := s.host.setRequests rest) name answer] at started
    exact ⟨_, started, rfl, rfl, rfl, rfl, rfl⟩
  case failed =>
    rw [HostEnv.openRequest_absent (h := s.host.setRequests rest) handle,
      HostEnv.openTransport_error (h := s.host.setRequests rest) name answer] at started
    exact ⟨_, started, rfl, rfl, rfl, rfl⟩
  case refused =>
    rw [HostEnv.openRequest_refused (h := s.host.setRequests rest) handle policy] at started
    exact started
  case reopened =>
    rw [HostEnv.openRequest_reopens (h := s.host.setRequests rest) handle policy,
      HostEnv.openTransport_handle (h := (s.host.setRequests rest).closeTransport k) name answer] at started
    exact ⟨_, started, rfl, rfl, rfl, rfl⟩
  case reopenFailed =>
    rw [HostEnv.openRequest_reopens (h := s.host.setRequests rest) handle policy,
      HostEnv.openTransport_error (h := (s.host.setRequests rest).closeTransport k) name answer] at started
    exact ⟨_, started, rfl, rfl, rfl, rfl⟩

/-- Settles O50: by the handle. -/
theorem closeRequest : Obligations.CloseRequest := by
  intro s rest noEvent ready asked
  have started := step_request noEvent ready asked
  rw [HostEnv.startRequest] at started
  refine ⟨fun k handle => ?present, fun handle => ?absent⟩
  case present =>
    rw [HostEnv.closeRequest_present (h := s.host.setRequests rest) handle] at started
    exact started
  case absent =>
    rw [HostEnv.closeRequest_absent (h := s.host.setRequests rest) handle] at started
    exact started

/-- Settles O59: the values of the initial host, in which a send finds no handle. -/
theorem hostInitialState : Obligations.HostInitialState :=
  ⟨rfl, rfl, rfl, rfl, rfl, rfl, fun f => sendWithoutHandle _ f [] rfl rfl rfl rfl⟩

/-! ## Whole sends -/

/-- Settles O53: the `STATUS` test after the failed `ENCODE` is the twelfth step. -/
theorem sendOutOfRange : Obligations.SendOutOfRange := by
  intro s f rest k bad noEvent released ready asked handle firstBad
  have q : s.quiet := ⟨noEvent, released⟩
  have run := run_toChecking q ready asked handle
  rw [blockAfter_encode_bad (b := { s.block with fieldIn := f }) firstBad] at run
  have test := step_checking_failed (s := { s with
    block := ({ s.block with fieldIn := f } : Block).invalidateTx.raiseOutOfRange bad
    host := (s.host.setRequests rest).goto .checking }) q rfl rfl
  refine ⟨_, (run_add (n := 1) run).trans (run_succ test), rfl, ?host⟩
  simp only [HostEnv.endExchange, HostEnv.setXState, HostEnv.goto, HostEnv.setRequests, HostEnv.tell, ready]

/-- Settles O54: the write is the 24th step, and its error ends the exchange. -/
theorem sendWriteFails : Obligations.SendWriteFails := by
  intro s f rest k answers noEvent released ready asked handle ok answer
  obtain ⟨u, run, -, block, host⟩ := run_written ⟨noEvent, released⟩ ready asked handle ok
  rw [HostEnv.writeFrame_error (h := u.host) _ (by rw [host]; exact handle) (by rw [host]; exact answer), host] at run
  exact ⟨_, packFrame (fieldBytes f), run, encodeFrame_fields ok, (congrArg Block.tx block :),
    (congrArg Block.dec block :), rfl, rfl, rfl, rfl, rfl, rfl⟩

/-- Settles O55: the read is the 25th step, and its error ends the exchange. -/
theorem sendReadFails : Obligations.SendReadFails := by
  intro s f rest k ws rs noEvent released ready asked handle ok written answer
  obtain ⟨u, run, -, block, host⟩ := run_read ⟨noEvent, released⟩ ready asked handle ok written
  rw [HostEnv.readResponse_error (h := u.host) (by rw [host]; exact handle) (by rw [host]; exact answer), host] at run
  exact ⟨_, packFrame (fieldBytes f), run, encodeFrame_fields ok, (congrArg Block.dec block :), rfl, rfl, rfl, rfl, rfl,
    rfl⟩

/-- Settles O56: the bytes are pushed, and the step behind the last push finds fewer than ten. -/
theorem sendShortReadTimesOut : Obligations.SendShortReadTimesOut := by
  intro s f rest k ws bs rs noEvent released ready asked handle ok written answer short
  obtain ⟨u, run, -, block, host⟩ :=
    run_pushed ⟨noEvent, released⟩ ready asked handle ok written answer (Nat.le_of_lt short)
  rw [host, HostEnv.afterPushes, if_pos short] at run
  have frame := foldl_pushByte_frame bs (s.block.sent f)
  have count : u.block.rxCount.toNat = bs.length := by
    rw [block, foldl_pushByte_rxCount, Block.sent_rxCount, BitVec.toNat_zero]
    omega
  refine ⟨_, packFrame (fieldBytes f), run, encodeFrame_fields ok, ?frame, ?frameValid, ?flag, count, ?success, rfl,
    rfl, rfl, rfl, rfl, rfl⟩
  all_goals
    rw [State.withHost_block, block, frame]
    rfl

/-- From the end of ten pushes: `DECODE`, the ten reads of `DEC` and the last read of `STATUS` complete the exchange. -/
theorem run_decoding {s : State} (q : s.quiet) (phase : s.host.phase = .decoding) (ten : s.block.rxCount = 10#8) :
    ∃ d, runSteps 12 s = .next { s with
      block := (s.block.emptyRx.loadDec s.block.rxbuf).succeed
      readData := d
      host := (s.host.setResponse (Frame.ofBytes s.block.rxbuf, validFrame s.block.rxbuf)).present s.block.rxbuf
        (some (validFrame s.block.rxbuf)) |>.endExchange .complete
        (.ok (Frame.ofBytes s.block.rxbuf) (validFrame s.block.rxbuf)) } := by
  have decode := step_hostWrite (i := .decode) (t := memWrite Reg.cmd.addr 0x0002#16)
    (k := fun h => h.goto (.readingDec 0 (Vector.replicate 10 0#8))) q (by simp only [hostStep, phase]) rfl (by simp)
  rw [blockAfter_decode_ok ten] at decode
  obtain ⟨d, read⟩ := run_readingDec 10 0 (Vector.replicate 10 0#8) { s with
    block := (s.block.emptyRx.loadDec s.block.rxbuf).succeed
    host := s.host.goto (.readingDec 0 (Vector.replicate 10 0#8)) } rfl q rfl fun i h => absurd h (Nat.not_lt_zero _)
  have flag := step_hostRead (a := Reg.status.addr) (k := fun h st => h.complete s.block.rxbuf st) (s := { s with
    block := (s.block.emptyRx.loadDec s.block.rxbuf).succeed
    readData := d
    host := s.host.goto (.readingFlag s.block.rxbuf) }) q rfl
  simp only [readAddr_status, HostEnv.complete, Block.status_ckValid] at flag
  exact ⟨_, (run_succ decode).trans ((run_add (n := 1) read).trans (run_succ flag))⟩

/-- Settles O57: ten bytes pushed into the empty buffer are the buffer, and so what the exchange completes with. -/
theorem sendCompletes : Obligations.SendCompletes := by
  intro s f rest k ws bs rs noEvent released ready asked handle ok written answer
  have ten : bs.toList.length = 10 := Vector.length_toList ..
  obtain ⟨u, run, q, block, host⟩ :=
    run_pushed ⟨noEvent, released⟩ ready asked handle ok written answer (Nat.le_of_eq ten)
  rw [host, HostEnv.afterPushes, if_neg (by omega), ten] at run
  have bytes : u.block.rxbuf = bs := by
    rw [block]
    exact Vector.toList_inj.1 (foldl_pushByte_ten rfl ten)
  have count : u.block.rxCount = 10#8 := by
    rw [block, rxCount_ten, foldl_pushByte_rxCount, ten]
    rfl
  obtain ⟨d, decoded⟩ := run_decoding (s := u.withHost (((s.host.received rest k (packFrame (fieldBytes f)) ws rs).goto
    (.pushing [] 10)).goto .decoding)) q rfl count
  simp only [State.withHost_block, bytes] at decoded
  refine ⟨_, packFrame (fieldBytes f), Frame.ofBytes bs, validFrame bs, (run_add (n := 12) run).trans decoded,
    encodeFrame_fields ok, decodeFrame_toList bs, ?tx, rfl, rfl, rfl, rfl, ?session, rfl, rfl, rfl, rfl⟩
  case tx =>
    have kept : u.block.tx = packFrame (fieldBytes f) := by rw [block, foldl_pushByte_frame, Block.sent_tx]
    exact kept
  case session =>
    rw [← handle]
    rfl

end Sys2Proof.Machine
end
